-- ==== Sys2Proof/Word.lean ====
section
/-! DEFINITION. The 32-bit word (00_scope.md R2) and a word whose bits may be unknown (10_state.md R13). -/

namespace Sys2Proof

/-- The value DFSR and a general register hold: 32 bits, bit 0 the least significant (00_scope.md R2). -/
abbrev Word := BitVec 32

/-- `n` bits, each known or *unknown* (10_state.md R13): bit `i` is unknown where `unk` has a 1, and otherwise it
is bit `i` of `val`. This is the pair `known / unknown-mask` of 95_test_vectors.md. The canonical form
(`KBits.canonical`) has a 0 in `val` wherever the bit is unknown, so equal contents are equal data. -/
structure KBits (n : Nat) where
  val : BitVec n
  unk : BitVec n
  deriving DecidableEq, Repr

/-- The contents of one DFSR cell. -/
abbrev KWord := KBits 32

end Sys2Proof
end

