-- ==== Sys2Proof/Syntax.lean ====
section
/-! DEFINITION. The instructions: one constructor per row of spec/opcode_table.json; the abstract access of 30_encoding.md
R72 and the assembler line of R71. -/

namespace Sys2Proof

/-- The two instruction sets that have the instructions (30_encoding.md R75, R76). -/
inductive ISet where
  | a32
  | t32
  deriving DecidableEq, Repr

/-- The direction of an access: `MRC` reads, `MCR` writes (30_encoding.md R71). -/
inductive Dir where
  | read
  | write
  deriving DecidableEq, Repr

/-- The access instructions (30_encoding.md R77). `rt` is the number `t` of the general register `<Rt>` names, `cond`
the A32 condition field; in T32 the condition is not in the word (R76). -/
inductive Instr where
  /-- `MRC p15, 0, <Rt>, c5, c0, 0`, A32: read DFSR (40_sysreg_access.md R94). -/
  | mrcA32 (cond rt : BitVec 4)
  /-- `MCR p15, 0, <Rt>, c5, c0, 0`, A32: write DFSR (40_sysreg_access.md R95). -/
  | mcrA32 (cond rt : BitVec 4)
  /-- `MRC p15, 0, <Rt>, c5, c0, 0`, T32 (R94). -/
  | mrcT32 (rt : BitVec 4)
  /-- `MCR p15, 0, <Rt>, c5, c0, 0`, T32 (R95). -/
  | mcrT32 (rt : BitVec 4)
  deriving DecidableEq, Repr

def Instr.iset : Instr → ISet
  | .mrcA32 _ _ => .a32
  | .mcrA32 _ _ => .a32
  | .mrcT32 _ => .t32
  | .mcrT32 _ => .t32

def Instr.dir : Instr → Dir
  | .mrcA32 _ _ => .read
  | .mcrA32 _ _ => .write
  | .mrcT32 _ => .read
  | .mcrT32 _ => .write

def Instr.rt : Instr → BitVec 4
  | .mrcA32 _ rt => rt
  | .mcrA32 _ rt => rt
  | .mrcT32 rt => rt
  | .mcrT32 rt => rt

/-- The condition field, where the word has one (30_encoding.md R75, R76). -/
def Instr.cond : Instr → Option (BitVec 4)
  | .mrcA32 c _ => some c
  | .mcrA32 c _ => some c
  | .mrcT32 _ => none
  | .mcrT32 _ => none

/-- An access to some System register, as the tuple of field values of 30_encoding.md R72. -/
structure Access where
  dir : Dir
  coproc : BitVec 4
  opc1 : BitVec 3
  crn : BitVec 4
  crm : BitVec 4
  opc2 : BitVec 3
  rt : BitVec 4
  deriving DecidableEq, Repr

/-- The optional width qualifier `{<q>}`, `.N` or `.W`; it has no effect on the operation (30_encoding.md R73). -/
inductive Qualifier where
  | n
  | w
  deriving DecidableEq, Repr

/-- One assembler line `MRC{<c>}{<q>} <coproc>, {#}<opc1>, <Rt>, <CRn>, <CRm>{, {#}<opc2>}`, or the same with `MCR`
(30_encoding.md R71, R73); an omitted optional operand is `none`. -/
structure AsmLine where
  dir : Dir
  c : Option (BitVec 4)
  q : Option Qualifier
  coproc : BitVec 4
  opc1 : BitVec 3
  rt : BitVec 4
  crn : BitVec 4
  crm : BitVec 4
  opc2 : Option (BitVec 3)
  deriving DecidableEq, Repr

end Sys2Proof
end

