-- ==== Sys2Proof/WellFormed.lean ====
section
/-! DEFINITION. Which terms of `Instr` are instructions: the checks of 30_encoding.md R75 and R79. -/

namespace Sys2Proof

/-- 30_encoding.md R79: `t` is 0 to 14 in A32, and 0 to 14 but 13 in T32. -/
def rtAdmitted (set : ISet) (rt : BitVec 4) : Bool :=
  match set with
  | .a32 => rt != 15#4
  | .t32 => rt != 15#4 && rt != 13#4

/-- 30_encoding.md R75: `0b1111` is not a condition. -/
def condAdmitted (cond : BitVec 4) : Bool := cond != 15#4

/-- A term is an instruction when its register number is admitted and its condition field is a condition. -/
def Instr.wf : Instr → Bool
  | .mrcA32 cond rt => condAdmitted cond && rtAdmitted .a32 rt
  | .mcrA32 cond rt => condAdmitted cond && rtAdmitted .a32 rt
  | .mrcT32 rt => rtAdmitted .t32 rt
  | .mcrT32 rt => rtAdmitted .t32 rt

end Sys2Proof
end

