-- ==== Sys2Proof/Decode.lean ====
section
/-! DEFINITION. The instruction words (30_encoding.md R72, R75 to R79): a decoder, total on any word, that rejects by name,
then an encoder. The bit positions are the spec's general knowledge, not its source's (D29; log 14). -/

namespace Sys2Proof

/-- Why a word is not an access to DFSR. -/
inductive DecodeError where
  /-- A32, bits [31:28] = 0b1111: a different instruction space (30_encoding.md R75). -/
  | notACondition
  /-- T32, bits [31:28] are not 0b1110 (30_encoding.md R76). -/
  | notT32Move
  /-- Bits [27:24] are not 0b1110, or bit [4] is not 1: neither `MRC` nor `MCR` (30_encoding.md R75). -/
  | notCoprocMove
  /-- An `MRC` or `MCR` of some other register: its field values are not those of R72. -/
  | otherRegister (a : Access)
  /-- `Rt` is a number the spec does not admit (30_encoding.md R79). -/
  | rtNotAdmitted (rt : BitVec 4)
  deriving DecidableEq, Repr

/-- 30_encoding.md R72: the access is to DFSR exactly when all five fields have these values. -/
def Access.isDfsr (a : Access) : Bool :=
  a.coproc == 0b1111#4 && a.opc1 == 0b000#3 && a.crn == 0b0101#4 && a.crm == 0b0000#4 && a.opc2 == 0b000#3

/-- The fields of a word in the layout of 30_encoding.md R75, with `L` as the direction. -/
def accessFields (w : Word) : Access :=
  { dir := if w.getLsbD 20 then .read else .write
    coproc := w.extractLsb' 8 4
    opc1 := w.extractLsb' 21 3
    crn := w.extractLsb' 16 4
    crm := w.extractLsb' 0 4
    opc2 := w.extractLsb' 5 3
    rt := w.extractLsb' 12 4 }

/-- The word as an `MRC` or `MCR` of some System register (30_encoding.md R75, R76). -/
def decodeAccess (set : ISet) (w : Word) : Except DecodeError Access :=
  let top := w.extractLsb' 28 4
  if set = .a32 ∧ top = 0b1111#4 then .error .notACondition
  else if set = .t32 ∧ top ≠ 0b1110#4 then .error .notT32Move
  else if w.extractLsb' 24 4 ≠ 0b1110#4 ∨ w.getLsbD 4 = false then .error .notCoprocMove
  else .ok (accessFields w)

/-- The instruction of one row (30_encoding.md R77). -/
def Instr.ofParts (set : ISet) (dir : Dir) (cond rt : BitVec 4) : Instr :=
  match set, dir with
  | .a32, .read => .mrcA32 cond rt
  | .a32, .write => .mcrA32 cond rt
  | .t32, .read => .mrcT32 rt
  | .t32, .write => .mcrT32 rt

/-- The decoder. The instruction set is the PE's instruction-set state, not a property of the word (30_encoding.md R76);
a T32 word is `hw1 : hw2`. -/
def decode (set : ISet) (w : Word) : Except DecodeError Instr :=
  match decodeAccess set w with
  | .error e => .error e
  | .ok a =>
    if a.isDfsr = false then .error (.otherRegister a)
    else if rtAdmitted set a.rt = false then .error (.rtNotAdmitted a.rt)
    else .ok (Instr.ofParts set a.dir (w.extractLsb' 28 4) a.rt)

/-- The same on the two halfwords of T32, `hw1` first (30_encoding.md R76). -/
def decodeHalfwords (hw1 hw2 : BitVec 16) : Except DecodeError Instr := decode .t32 (hw1 ++ hw2)

/-- The tuple of 30_encoding.md R72. -/
def dfsrAccess (dir : Dir) (rt : BitVec 4) : Access :=
  { dir := dir, coproc := 0b1111#4, opc1 := 0b000#3, crn := 0b0101#4, crm := 0b0000#4, opc2 := 0b000#3, rt := rt }

/-- `L` (30_encoding.md R75): 1 is `MRC`, 0 is `MCR`. -/
def Dir.lBit : Dir → BitVec 1
  | .read => 1#1
  | .write => 0#1

/-- The layout of 30_encoding.md R75 (and R76, read as `hw1 : hw2`), most significant field first. -/
def accessWord (top : BitVec 4) (a : Access) : Word :=
  top ++ 0b1110#4 ++ a.opc1 ++ a.dir.lBit ++ a.crn ++ a.rt ++ a.coproc ++ a.opc2 ++ 1#1 ++ a.crm

/-- The word of an instruction; in T32 bits [31:28] are 0b1110 (30_encoding.md R76). -/
def encode : Instr → Word
  | .mrcA32 cond rt => accessWord cond (dfsrAccess .read rt)
  | .mcrA32 cond rt => accessWord cond (dfsrAccess .write rt)
  | .mrcT32 rt => accessWord 0b1110#4 (dfsrAccess .read rt)
  | .mcrT32 rt => accessWord 0b1110#4 (dfsrAccess .write rt)

/-- The access an assembler line names: an omitted `<opc2>` is 0, and `{<q>}` has no effect (30_encoding.md R73). -/
def AsmLine.access (l : AsmLine) : Access :=
  { dir := l.dir, coproc := l.coproc, opc1 := l.opc1, crn := l.crn, crm := l.crm, opc2 := l.opc2.getD 0#3, rt := l.rt }

/-- The A32 word of an assembler line: an absent `{<c>}` means always, 0b1110 (30_encoding.md R73, R75). -/
def AsmLine.wordA32 (l : AsmLine) : Word := accessWord (l.c.getD 0b1110#4) l.access

/-- The T32 word of an assembler line: `{<c>}` is the IT block's, not the word's (30_encoding.md R76). -/
def AsmLine.wordT32 (l : AsmLine) : Word := accessWord 0b1110#4 l.access

/-- The set under which a word of the opcode table is read: T32 where it is a T32 word, else A32 (DESIGN CHOICE, log 13:
every T32 word is an A32 word too, and the table gives no set beside a word). -/
def tableSet (w : Word) : ISet :=
  match decode .t32 w with
  | .ok _ => .t32
  | .error _ => .a32

/-- What the decoder reads from a word numbered as spec/opcode_table.json numbers it: one 32-bit number. -/
def decodeTableWord (nbits w : Nat) : Option Instr :=
  if nbits ≤ 32 ∧ w < 2 ^ nbits then
    match decode (tableSet (BitVec.ofNat 32 w)) (BitVec.ofNat 32 w) with
    | .ok i => some i
    | .error _ => none
  else none

end Sys2Proof
end

