-- ==== Sys2Proof/Config.lean ====
section
/-! DEFINITION. The implementation parameters of 00_scope.md section 4, and the free values, which have no body. -/

namespace Sys2Proof

/-- The parameter `RES0_POLICY` (00_scope.md section 4, OPEN by D7): what a bit reserved under both layouts does with
a 1 that `MCR` writes to it. -/
inductive Res0Policy where
  /-- The bit ignores the write and reads 0. -/
  | hardwired
  /-- The bit holds what was written. -/
  | storage
  deriving DecidableEq, Repr

/-- The parameters that are fixed for one chip (00_scope.md section 4). No step changes them. The spec gives none of
them a value, so a claim quantifies over all of them. -/
structure Config where
  /-- `HAVE_ANY_AARCH32`: the register is present only when it is true (00_scope.md R3). -/
  haveAnyAArch32 : Bool
  /-- `HAVE_RAS`. -/
  haveRas : Bool
  /-- `HAVE_EXT_CLASS`. -/
  haveExtClass : Bool
  /-- `HAVE_IMPDEF_LOCKDOWN`. -/
  haveImpdefLockdown : Bool
  /-- `HAVE_IMPDEF_EXCL`. -/
  haveImpdefExcl : Bool
  /-- `HaveEL(EL3)`. -/
  haveEL3 : Bool
  /-- `RES0_POLICY`. -/
  res0Policy : Res0Policy
  deriving DecidableEq, Repr

/-- DESIGN CHOICE (log 6): the parameters of the machine `State.reset`, those 95_test_vectors.md assumes where a row
says nothing, with one unbanked cell and `storage` (its program P4). Unsafe to rest a claim on. -/
def Config.default : Config :=
  { haveAnyAArch32 := true, haveRas := true, haveExtClass := true, haveImpdefLockdown := true,
    haveImpdefExcl := true, haveEL3 := false, res0Policy := .storage }

/-- An External abort, by a number that stands for its identity: all that `EXT_CLASS` may depend on
(DESIGN CHOICE, log 12; D18). -/
abbrev ExternalAbort := Nat

/-- `EXT_CLASS` (00_scope.md section 4, 60_exceptions.md R126): an implementation's classification of External aborts,
uninterpreted. A free value: no body. -/
opaque Config.extClass : ExternalAbort → BitVec 1

/-- `draw_32()` (00_scope.md section 5.1): the value the `k`-th read takes its unknown bits from. A free value: no
body, and no law relates two indexes (10_state.md R13, D5; log 7). -/
opaque Config.draw : Nat → Word

/-- Whether a conditional access that fails its condition still raises the exception its checks give
(30_encoding.md R80, D4: both admitted). A free value: no body (log 8). -/
opaque Config.condFailRaises : Nat → Bool

end Sys2Proof
end

