-- ==== Sys2Proof/Machine/Bits.lean ====
section
/-! DEFINITION. Operations on bits that may be unknown (10_state.md R13). -/

namespace Sys2Proof

/-- All bits known, with the bits of `v`. -/
def KBits.known {n : Nat} (v : BitVec n) : KBits n := { val := v, unk := 0#n }

/-- All bits unknown. -/
def KBits.unknown (n : Nat) : KBits n := { val := 0#n, unk := BitVec.allOnes n }

/-- One known bit. -/
def KBits.flag (b : Bool) : KBits 1 := KBits.known (BitVec.ofBool b)

/-- Concatenation, the left operand in the more significant bits (00_scope.md section 5.1). -/
def KBits.append {n m : Nat} (a : KBits n) (b : KBits m) : KBits (n + m) :=
  { val := a.val ++ b.val, unk := a.unk ++ b.unk }

/-- Bit `i`: `none` when it is unknown. -/
def KBits.bit {n : Nat} (c : KBits n) (i : Nat) : Option Bool :=
  if c.unk.getLsbD i then none else some (c.val.getLsbD i)

/-- The value a read returns: the known bits as held, the unknown ones from `draw` (40_sysreg_access.md R94, `ReadCell`). -/
def KBits.read {n : Nat} (c : KBits n) (draw : BitVec n) : BitVec n :=
  (c.val &&& ~~~c.unk) ||| (draw &&& c.unk)

/-- The canonical form: no value stands under an unknown bit. -/
def KBits.canonical {n : Nat} (c : KBits n) : Bool := c.val &&& c.unk == 0#n

end Sys2Proof
end

