-- ==== Sys2Proof/Machine/Reserved.lean ====
section
/-! DEFINITION. The bits that are RES0 under both layouts (10_state.md R20; 40_sysreg_access.md R95) and what reset leaves in
a cell (10_state.md R44, R45). -/

namespace Sys2Proof

/-- `Res0BothMask` (40_sysreg_access.md R95): bits [31:17] and [8]; [15:14] without RAS; [12] without classification. -/
def res0BothMask (cfg : Config) : Word :=
  0xFFFE0100#32 ||| (if cfg.haveRas then 0#32 else 0x0000C000#32) |||
    (if cfg.haveExtClass then 0#32 else 0x00001000#32)

/-- `Stored(v)` (40_sysreg_access.md R95): what `MCR` of `v` leaves in the cell. -/
def stored (cfg : Config) (v : Word) : Word :=
  match cfg.res0Policy with
  | .storage => v
  | .hardwired => v &&& ~~~(res0BothMask cfg)

/-- A cell after reset (10_state.md R44, R45): every bit unknown, but for the bits of `Res0BothMask`, which are 0 under
`hardwired`. -/
def resetCell (cfg : Config) : KWord :=
  match cfg.res0Policy with
  | .storage => KBits.unknown 32
  | .hardwired => { val := 0#32, unk := ~~~(res0BothMask cfg) }

end Sys2Proof
end

