-- ==== Sys2Proof/Machine/State.lean ====
section
/-! DEFINITION. The state of the hardware, the moves of its environment and its state after reset. -/

namespace Sys2Proof.Machine

/-- The Exception levels, values of `PSTATE.EL` (60_exceptions.md R140). -/
inductive EL where
  | el0
  | el1
  | el2
  | el3
  deriving DecidableEq, Repr

/-- The state outside the hardware that its rules read (10_state.md section 6), free to change between steps (D31). -/
structure Inputs where
  /-- `PSTATE.EL`. -/
  el : EL
  /-- `EL2Enabled()`. -/
  el2Enabled : Bool
  /-- `ELUsingAArch32(EL2)`. -/
  el2AArch32 : Bool
  /-- `ELUsingAArch32(EL3)`. -/
  el3AArch32 : Bool
  /-- `HSTR_EL2.T5`. -/
  hstrEl2T5 : Bool
  /-- `HSTR.T5`. -/
  hstrT5 : Bool
  /-- `HCR_EL2.TRVM`. -/
  hcrEl2Trvm : Bool
  /-- `HCR.TRVM`. -/
  hcrTrvm : Bool
  /-- `HCR_EL2.TVM`. -/
  hcrEl2Tvm : Bool
  /-- `HCR.TVM`. -/
  hcrTvm : Bool
  /-- `SCR.NS`. -/
  scrNS : Bool
  /-- `TTBCR.EAE`. No access reads it (10_state.md R12), and a report carries its own `eae` (D9; log 18). -/
  ttbcrEae : Bool
  /-- `cond_passed`: the PE's evaluation of the condition of an access that is not unconditional (30_encoding.md R72, D4). -/
  condPassed : Bool
  /-- The PE's instruction-set state, which the decoder reads (30_encoding.md R76). -/
  iset : ISet
  deriving DecidableEq, Repr

/-- The three cells the access pseudocode names (10_state.md R11). -/
inductive CellName where
  | dfsr
  | dfsrS
  | dfsrNS
  deriving DecidableEq, Repr

/-- The 31 kinds of fault DFSR can record (10_state.md R42, its column "kind"); a digit is the level. -/
inductive FaultKind where
  | addressSize0
  | addressSize1
  | addressSize2
  | addressSize3
  | translation1
  | translation2
  | translation3
  | accessFlag1
  | accessFlag2
  | accessFlag3
  | domain1
  | domain2
  | permission1
  | permission2
  | permission3
  | syncExternal
  | syncExternalTTW1
  | syncExternalTTW2
  | syncExternalTTW3
  | sError
  | sErrorParity
  | syncParity
  | syncParityTTW1
  | syncParityTTW2
  | syncParityTTW3
  | alignment
  | debug
  | iCacheMaint
  | tlbConflict
  | lockdown
  | unsupportedExclusive
  deriving DecidableEq, Repr

/-- `d.access` (60_exceptions.md R120): what the faulting instruction was doing. -/
inductive AccessKind where
  | read
  | write
  | notStated
  deriving DecidableEq, Repr

/-- The descriptor a report carries (60_exceptions.md R120). -/
structure Descriptor where
  /-- The copy written. -/
  cell : CellName
  /-- The layout: the `TTBCR.EAE` that applies to the fault. -/
  eae : Bool
  kind : FaultKind
  access : AccessKind
  /-- The fault was generated by a cache maintenance instruction. -/
  byCmo : Bool
  /-- The fault was generated by an address translation System instruction. -/
  byAt : Bool
  /-- Read only when the kind is `SyncExternal`. -/
  farValid : Bool
  /-- Read only when the kind is `SError` and RAS is implemented. -/
  aet : BitVec 2
  /-- Read only for External aborts: the argument of `EXT_CLASS`. -/
  ext : ExternalAbort
  /-- Read only when `eae` is 0. -/
  domain : Option (BitVec 4)
  deriving DecidableEq, Repr

/-- What can happen next to the hardware: an instruction the PE executes, or a move of the environment
(60_exceptions.md R145). -/
inductive Event where
  /-- The PE executes the instruction with this word (in T32, `hw1 : hw2`). -/
  | fetch (w : Word)
  /-- A Data Abort is taken and its status is recorded (60_exceptions.md R120). -/
  | report (d : Descriptor)
  /-- A write of ESR_EL1[31:0] (10_state.md R14). -/
  | esrWrite (v : Word)
  /-- Reset (70_reset_and_hazards.md R160). -/
  | reset
  /-- A change of the inputs (60_exceptions.md R145). -/
  | setInputs (i : Inputs)
  /-- The rest of the PE changes a general register (10_state.md section 6, `R[t]`). -/
  | setReg (t : Fin 15) (v : Word)
  deriving DecidableEq, Repr

/-- The outcome an access hands to the PE (D2, D30). What the PE does with it is outside the hardware (log 3). -/
inductive Response where
  /-- The access completed; so too when a failed condition made it do nothing. -/
  | completed
  /-- `raise Undefined()` (60_exceptions.md R110). -/
  | undefined
  /-- `raise TrapEL2(aarch64, ec)` (60_exceptions.md R111, R112). -/
  | trapEL2 (aarch64 : Bool) (ec : BitVec 8)
  deriving DecidableEq, Repr

/-- Nothing stops this hardware with a fault: "A model has no `stuck` case" (93_implementation_defined.md Part 1), and an
exception of an access is an outcome the machine goes on from (log 3). -/
inductive Fault where
  deriving DecidableEq, Repr

/-- Why a descriptor is not admissible (60_exceptions.md R122). -/
inductive Inadmissible where
  /-- `cell` does not exist (10_state.md R11). -/
  | cellAbsent
  /-- `kind` has no code under layout `eae` (10_state.md R42). -/
  | noCode
  /-- The kind needs RAS absent and `HAVE_RAS` is true. -/
  | needsRasAbsent
  /-- `Lockdown` without `HAVE_IMPDEF_LOCKDOWN`. -/
  | lockdownAbsent
  /-- `UnsupportedExclusive` without `HAVE_IMPDEF_EXCL`. -/
  | exclusiveAbsent
  /-- `by_cmo` and `by_at` are both true. -/
  | cmoAndAt
  deriving DecidableEq, Repr

/-- Why the model declines a step. Every one is safe: the model stops where the spec gives no behaviour. -/
inductive Refusal where
  /-- An arm of `exec` whose instruction has no meaning yet. No arm raises it in this model. -/
  | notModelled (mnemonic : String)
  /-- Raised by every step and every meaning when `HAVE_ANY_AARCH32` is false (00_scope.md R3, D20). Safe. -/
  | registerAbsent
  /-- Raised by a step on a word that is not an access to DFSR (30_encoding.md R72, R75, R76, R79; U17, U18). Safe. -/
  | undecoded (e : DecodeError)
  /-- Raised by a meaning on a register number the spec does not admit (30_encoding.md R79, D3); no word decodes to such
  a term. Safe. -/
  | rtNotAdmitted (rt : BitVec 4)
  /-- Raised by a meaning on the condition field 0b1111 (30_encoding.md R75); no word decodes to such a term. Safe. -/
  | condNotACondition
  /-- Raised by a report with an inadmissible descriptor, which "is not a behaviour of the hardware"
  (60_exceptions.md R122). Safe. -/
  | inadmissible (why : Inadmissible)
  /-- Raised by a write through ESR_EL1 under `hardwired`, where "the spec has no meaning for the mapping of those bits"
  (60_exceptions.md R145, D19). Safe. -/
  | esrWriteNeedsStorage
  deriving DecidableEq, Repr

/-- The state. INVENTORY.md lists each field with its rule and its reset value. -/
structure State where
  /-- The parameters of the chip; no step changes them. -/
  cfg : Config
  /-- The cell when the register is not banked, and so ESR_EL1[31:0] (10_state.md R11, R14). -/
  dfsr : KWord
  /-- The Secure copy (10_state.md R11). -/
  dfsrS : KWord
  /-- The Non-secure copy (10_state.md R11). -/
  dfsrNS : KWord
  /-- `x[0]` to `x[14]`, the general registers an access can name (30_encoding.md R79). -/
  x : Vector Word 15
  inputs : Inputs
  /-- The outcome of the last access, `none` before the first. -/
  response : Option Response
  /-- What happens next, oldest first: the model's own field (log 2). -/
  events : List Event
  /-- How many free values were drawn: the model's own field (log 7, log 8). -/
  draws : Nat
  deriving DecidableEq, Repr

/-- The inputs of `State.reset`, those of 95_test_vectors.md P4: EL1, EL2 not enabled, not banked. DESIGN CHOICE (log 5): the
spec gives them no reset value and says to take them as premises (70_reset_and_hazards.md R161). Unsafe. -/
def Inputs.default : Inputs :=
  { el := .el1, el2Enabled := false, el2AArch32 := false, el3AArch32 := false, hstrEl2T5 := false, hstrT5 := false,
    hcrEl2Trvm := false, hcrTrvm := false, hcrEl2Tvm := false, hcrTvm := false, scrNS := false, ttbcrEae := false,
    condPassed := true, iset := .a32 }

/-- The machine with the parameters `cfg` right after reset: the cells as 10_state.md R44 and R45 say, no event to come. The
general registers and the inputs are DESIGN CHOICES (log 4, log 5). -/
def State.resetWith (cfg : Config) : State :=
  { cfg := cfg, dfsr := resetCell cfg, dfsrS := resetCell cfg, dfsrNS := resetCell cfg, x := Vector.replicate 15 0#32,
    inputs := Inputs.default, response := none, events := [], draws := 0 }

/-- The machine right after reset, with the parameters of log 6. -/
def State.reset : State := State.resetWith Config.default

end Sys2Proof.Machine
end

