-- ==== Sys2Proof/Machine/Operands.lean ====
section
/-! DEFINITION. The operands of the two instructions: `<Rt>` and `{<c>}` (30_encoding.md R73, R79, R80). The others are fixed
numbers, which the decoder checks. -/

namespace Sys2Proof.Machine

/-- The general register `<Rt>` names: `x[0]` to `x[14]`, without `x[13]` in T32 (30_encoding.md R79). -/
def regOf (set : ISet) (rt : BitVec 4) : Option (Fin 15) :=
  if rtAdmitted set rt = false then none
  else if h : rt.toNat < 15 then some ⟨rt.toNat, h⟩
  else none

/-- `cond_passed` (30_encoding.md R73, R75, R80): an A32 word with condition 0b1110, "always", passes (DEDUCED, log 9); every
other access takes the PE's evaluation as an input (D4). -/
def condPasses (cond : Option (BitVec 4)) (inputs : Inputs) : Bool :=
  match cond with
  | some c => c == 0b1110#4 || inputs.condPassed
  | none => inputs.condPassed

/-- The condition field is a condition (30_encoding.md R75); a T32 access has no such field (R76). -/
def condFieldOk (cond : Option (BitVec 4)) : Bool :=
  match cond with
  | some c => condAdmitted c
  | none => true

end Sys2Proof.Machine
end

