-- ==== Sys2Proof/Machine/Ops.lean ====
section
/-! DEFINITION. The named operations on the state: the cells, the general registers, the free values, and raising the outcome of
an access. The hardware has no memory (20_memory.md R60, R61). -/

namespace Sys2Proof.Machine

/-- What a step or a meaning answers. -/
abbrev Answer := Host.Outcome State Fault Refusal

/-- The register is banked (10_state.md R11). -/
def banked (cfg : Config) (inputs : Inputs) : Bool := cfg.haveEL3 && inputs.el3AArch32

/-- The cell exists (10_state.md R11). -/
def cellExists (cfg : Config) (inputs : Inputs) : CellName → Bool
  | .dfsr => !banked cfg inputs
  | .dfsrS => banked cfg inputs
  | .dfsrNS => banked cfg inputs

/-- The contents of a cell. -/
def State.cell (s : State) : CellName → KWord
  | .dfsr => s.dfsr
  | .dfsrS => s.dfsrS
  | .dfsrNS => s.dfsrNS

/-- A cell written whole; the other copies are not touched (10_state.md R11). -/
def State.setCell (s : State) (c : CellName) (v : KWord) : State :=
  match c with
  | .dfsr => { s with dfsr := v }
  | .dfsrS => { s with dfsrS := v }
  | .dfsrNS => { s with dfsrNS := v }

/-- ESR_EL1[31:0]: the storage of the cell `DFSR`; neither banked copy is mapped (10_state.md R14, D19). -/
def State.esrEl1 (s : State) : Option KWord := if banked s.cfg s.inputs then none else some s.dfsr

/-- `x[t]`. -/
def State.reg (s : State) (t : Fin 15) : Word := s.x[t]

/-- `x[t] <- v`. -/
def State.setReg (s : State) (t : Fin 15) (v : Word) : State := { s with x := s.x.set t v }

def State.setInputs (s : State) (i : Inputs) : State := { s with inputs := i }

def State.setEvents (s : State) (es : List Event) : State := { s with events := es }

/-- One free value is drawn (10_state.md R13: each read is a fresh choice). -/
def State.drawn (s : State) : State := { s with draws := s.draws + 1 }

/-- The access hands its outcome to the PE, and nothing else changes. For `undefined` and `trapEL2` this is all the spec
describes of taking the exception (60_exceptions.md R113, D30): what exception entry itself changes is outside the
hardware (log 3). The spec names no return from an exception (60_exceptions.md R138). -/
def State.respond (s : State) (r : Response) : State := { s with response := some r }

end Sys2Proof.Machine
end

