-- ==== Sys2Proof/Machine/SystemRegister.lean ====
section
/-! DEFINITION. The System register access instructions, the one family of the hardware (40_sysreg_access.md). -/

namespace Sys2Proof.Machine

/-- The three results of the access check (40_sysreg_access.md R96). -/
inductive CheckResult where
  | undefined
  | trap (aarch64 : Bool)
  | cell (c : CellName)
  deriving DecidableEq, Repr

/-- `TxVM` of `HCR_EL2` (40_sysreg_access.md R96): `TRVM` for a read, `TVM` for a write. -/
def hcrEl2Txvm (dir : Dir) (inputs : Inputs) : Bool :=
  match dir with
  | .read => inputs.hcrEl2Trvm
  | .write => inputs.hcrEl2Tvm

/-- `TxVM` of `HCR` (40_sysreg_access.md R96). -/
def hcrTxvm (dir : Dir) (inputs : Inputs) : Bool :=
  match dir with
  | .read => inputs.hcrTrvm
  | .write => inputs.hcrTvm

/-- The cell of an access that is not refused below EL3 (40_sysreg_access.md R96). -/
def cellBelowEl3 (cfg : Config) (inputs : Inputs) : CellName := if banked cfg inputs then .dfsrNS else .dfsr

/-- `CheckAccess(dir)` (40_sysreg_access.md R96): the order of the arms is the priority (60_exceptions.md R115). -/
def checkAccess (dir : Dir) (cfg : Config) (inputs : Inputs) : CheckResult :=
  match inputs.el with
  | .el0 => .undefined
  | .el1 =>
    if inputs.el2Enabled && !inputs.el2AArch32 && inputs.hstrEl2T5 then .trap true
    else if inputs.el2Enabled && inputs.el2AArch32 && inputs.hstrT5 then .trap false
    else if inputs.el2Enabled && !inputs.el2AArch32 && hcrEl2Txvm dir inputs then .trap true
    else if inputs.el2Enabled && inputs.el2AArch32 && hcrTxvm dir inputs then .trap false
    else .cell (cellBelowEl3 cfg inputs)
  | .el2 => .cell (cellBelowEl3 cfg inputs)
  | .el3 => .cell (if inputs.scrNS then .dfsrNS else .dfsrS)

/-- The outcome of an exception of the check, `none` when there is none; the exception class is always 0x03
(60_exceptions.md R110 to R112). -/
def CheckResult.exception : CheckResult → Option Response
  | .undefined => some .undefined
  | .trap aarch64 => some (.trapEL2 aarch64 0x03#8)
  | .cell _ => none

/-- `x[t] <- ReadCell(c)` (40_sysreg_access.md R94). The cell is not changed, and one free value is drawn. -/
def readInto (c : CellName) (t : Fin 15) (s : State) : State :=
  ((s.setReg t ((s.cell c).read (Config.draw s.draws))).drawn).respond .completed

/-- `c <- Stored(x[t])` (40_sysreg_access.md R95): every bit of the cell becomes known. -/
def writeFrom (c : CellName) (t : Fin 15) (s : State) : State :=
  (s.setCell c (KBits.known (stored s.cfg (s.reg t)))).respond .completed

/-- The transfer of an access that is not refused. -/
def transfer (dir : Dir) (c : CellName) (t : Fin 15) (s : State) : State :=
  match dir with
  | .read => readInto c t s
  | .write => writeFrom c t s

/-- An access whose condition passed (40_sysreg_access.md R94, R95). -/
def performAccess (dir : Dir) (t : Fin 15) (s : State) : State :=
  match checkAccess dir s.cfg s.inputs with
  | .undefined => s.respond .undefined
  | .trap aarch64 => s.respond (.trapEL2 aarch64 0x03#8)
  | .cell c => transfer dir c t s

/-- An access whose condition failed (30_encoding.md R80): no transfer; the exception outcome the checks would give may or
may not be raised, a free choice. -/
def skipAccess (dir : Dir) (s : State) : State :=
  match (checkAccess dir s.cfg s.inputs).exception with
  | none => s.respond .completed
  | some r => (s.drawn).respond (if Config.condFailRaises s.draws then r else .completed)

/-- The shared meaning of the four instructions (40_sysreg_access.md R94, R95). -/
def access (set : ISet) (dir : Dir) (cond : Option (BitVec 4)) (rt : BitVec 4) (s : State) : Answer :=
  if s.cfg.haveAnyAArch32 = false then .refused .registerAbsent
  else if condFieldOk cond = false then .refused .condNotACondition
  else
    match regOf set rt with
    | none => .refused (.rtNotAdmitted rt)
    | some t => .next (if condPasses cond s.inputs then performAccess dir t s else skipAccess dir s)

/-- `MRC p15, 0, <Rt>, c5, c0, 0`, A32 (40_sysreg_access.md R94). -/
def execMrcA32 (cond rt : BitVec 4) (s : State) : Answer := access .a32 .read (some cond) rt s

/-- `MCR p15, 0, <Rt>, c5, c0, 0`, A32 (40_sysreg_access.md R95). -/
def execMcrA32 (cond rt : BitVec 4) (s : State) : Answer := access .a32 .write (some cond) rt s

/-- `MRC p15, 0, <Rt>, c5, c0, 0`, T32 (40_sysreg_access.md R94). -/
def execMrcT32 (rt : BitVec 4) (s : State) : Answer := access .t32 .read none rt s

/-- `MCR p15, 0, <Rt>, c5, c0, 0`, T32 (40_sysreg_access.md R95). -/
def execMcrT32 (rt : BitVec 4) (s : State) : Answer := access .t32 .write none rt s

end Sys2Proof.Machine
end

