-- ==== Sys2Proof/Machine/FaultKinds.lean ====
section
/-! DEFINITION. The status codes of the fault kinds under both layouts, and decoding a value (10_state.md R28, R41, R42, R43). -/

namespace Sys2Proof.Machine

/-- What the source's own words say of a fault's timing (10_state.md R42). -/
inductive Timing where
  /-- `-`: the name says neither; synchronous by general knowledge. -/
  | unsaid
  | sync
  | async
  | impdef
  deriving DecidableEq, Repr

/-- The 5-bit code FS[4:0] under the Short-descriptor layout (10_state.md R28). -/
def FaultKind.fs : FaultKind → Option (BitVec 5)
  | .addressSize0 => none
  | .addressSize1 => none
  | .addressSize2 => none
  | .addressSize3 => none
  | .translation1 => some 0b00101#5
  | .translation2 => some 0b00111#5
  | .translation3 => none
  | .accessFlag1 => some 0b00011#5
  | .accessFlag2 => some 0b00110#5
  | .accessFlag3 => none
  | .domain1 => some 0b01001#5
  | .domain2 => some 0b01011#5
  | .permission1 => some 0b01101#5
  | .permission2 => some 0b01111#5
  | .permission3 => none
  | .syncExternal => some 0b01000#5
  | .syncExternalTTW1 => some 0b01100#5
  | .syncExternalTTW2 => some 0b01110#5
  | .syncExternalTTW3 => none
  | .sError => some 0b10110#5
  | .sErrorParity => some 0b11000#5
  | .syncParity => some 0b11001#5
  | .syncParityTTW1 => some 0b11100#5
  | .syncParityTTW2 => some 0b11110#5
  | .syncParityTTW3 => none
  | .alignment => some 0b00001#5
  | .debug => some 0b00010#5
  | .iCacheMaint => some 0b00100#5
  | .tlbConflict => some 0b10000#5
  | .lockdown => some 0b10100#5
  | .unsupportedExclusive => some 0b10101#5

/-- The 6-bit code STATUS under the Long-descriptor layout (10_state.md R41). -/
def FaultKind.status : FaultKind → Option (BitVec 6)
  | .addressSize0 => some 0b000000#6
  | .addressSize1 => some 0b000001#6
  | .addressSize2 => some 0b000010#6
  | .addressSize3 => some 0b000011#6
  | .translation1 => some 0b000101#6
  | .translation2 => some 0b000110#6
  | .translation3 => some 0b000111#6
  | .accessFlag1 => some 0b001001#6
  | .accessFlag2 => some 0b001010#6
  | .accessFlag3 => some 0b001011#6
  | .domain1 => none
  | .domain2 => none
  | .permission1 => some 0b001101#6
  | .permission2 => some 0b001110#6
  | .permission3 => some 0b001111#6
  | .syncExternal => some 0b010000#6
  | .syncExternalTTW1 => some 0b010101#6
  | .syncExternalTTW2 => some 0b010110#6
  | .syncExternalTTW3 => some 0b010111#6
  | .sError => some 0b010001#6
  | .sErrorParity => some 0b011001#6
  | .syncParity => some 0b011000#6
  | .syncParityTTW1 => some 0b011101#6
  | .syncParityTTW2 => some 0b011110#6
  | .syncParityTTW3 => some 0b011111#6
  | .alignment => some 0b100001#6
  | .debug => some 0b100010#6
  | .iCacheMaint => none
  | .tlbConflict => some 0b110000#6
  | .lockdown => some 0b110100#6
  | .unsupportedExclusive => some 0b110101#6

/-- The column "timing" of 10_state.md R42. -/
def FaultKind.timing : FaultKind → Timing
  | .addressSize0 => .unsaid
  | .addressSize1 => .unsaid
  | .addressSize2 => .unsaid
  | .addressSize3 => .unsaid
  | .translation1 => .unsaid
  | .translation2 => .unsaid
  | .translation3 => .unsaid
  | .accessFlag1 => .unsaid
  | .accessFlag2 => .unsaid
  | .accessFlag3 => .unsaid
  | .domain1 => .unsaid
  | .domain2 => .unsaid
  | .permission1 => .unsaid
  | .permission2 => .unsaid
  | .permission3 => .unsaid
  | .syncExternal => .sync
  | .syncExternalTTW1 => .sync
  | .syncExternalTTW2 => .sync
  | .syncExternalTTW3 => .sync
  | .sError => .async
  | .sErrorParity => .async
  | .syncParity => .sync
  | .syncParityTTW1 => .sync
  | .syncParityTTW2 => .sync
  | .syncParityTTW3 => .sync
  | .alignment => .unsaid
  | .debug => .unsaid
  | .iCacheMaint => .unsaid
  | .tlbConflict => .unsaid
  | .lockdown => .impdef
  | .unsupportedExclusive => .impdef

/-- The column "TTW" of 10_state.md R42: the name says "on translation table walk". -/
def FaultKind.onWalk : FaultKind → Bool
  | .syncExternalTTW1 | .syncExternalTTW2 | .syncExternalTTW3 => true
  | .syncParityTTW1 | .syncParityTTW2 | .syncParityTTW3 => true
  | .addressSize0 | .addressSize1 | .addressSize2 | .addressSize3 | .translation1 | .translation2 | .translation3 => false
  | .accessFlag1 | .accessFlag2 | .accessFlag3 | .domain1 | .domain2 | .permission1 | .permission2 | .permission3 => false
  | .syncExternal | .sError | .sErrorParity | .syncParity | .alignment | .debug | .iCacheMaint | .tlbConflict => false
  | .lockdown | .unsupportedExclusive => false

/-- The column "needs RAS absent" of 10_state.md R42. -/
def FaultKind.needsRasAbsent : FaultKind → Bool
  | .sErrorParity | .syncParity | .syncParityTTW1 | .syncParityTTW2 | .syncParityTTW3 => true
  | .addressSize0 | .addressSize1 | .addressSize2 | .addressSize3 | .translation1 | .translation2 | .translation3 => false
  | .accessFlag1 | .accessFlag2 | .accessFlag3 | .domain1 | .domain2 | .permission1 | .permission2 | .permission3 => false
  | .syncExternal | .syncExternalTTW1 | .syncExternalTTW2 | .syncExternalTTW3 | .sError | .alignment | .debug => false
  | .iCacheMaint | .tlbConflict | .lockdown | .unsupportedExclusive => false

/-- The lookup level a kind carries, level 0 standing for "in translation table base register"
(10_state.md R28, R41; what a level refers to is not in the source). -/
def FaultKind.level : FaultKind → Option Nat
  | .addressSize0 => some 0
  | .addressSize1 | .translation1 | .accessFlag1 | .domain1 | .permission1 | .syncExternalTTW1 | .syncParityTTW1 => some 1
  | .addressSize2 | .translation2 | .accessFlag2 | .domain2 | .permission2 | .syncExternalTTW2 | .syncParityTTW2 => some 2
  | .addressSize3 | .translation3 | .accessFlag3 | .permission3 | .syncExternalTTW3 | .syncParityTTW3 => some 3
  | .syncExternal | .sError | .sErrorParity | .syncParity | .alignment | .debug | .iCacheMaint | .tlbConflict => none
  | .lockdown | .unsupportedExclusive => none

/-- The rows of 10_state.md R42, in its order. -/
def FaultKind.all : List FaultKind :=
  [.addressSize0, .addressSize1, .addressSize2, .addressSize3, .translation1, .translation2, .translation3,
   .accessFlag1, .accessFlag2, .accessFlag3, .domain1, .domain2, .permission1, .permission2, .permission3,
   .syncExternal, .syncExternalTTW1, .syncExternalTTW2, .syncExternalTTW3, .sError, .sErrorParity, .syncParity,
   .syncParityTTW1, .syncParityTTW2, .syncParityTTW3, .alignment, .debug, .iCacheMaint, .tlbConflict,
   .lockdown, .unsupportedExclusive]

/-- `kind` applies to the chip: a row marked "When RAS is not implemented" is reserved when `HAVE_RAS` (10_state.md R28,
R41, D16). -/
def FaultKind.applies (cfg : Config) (k : FaultKind) : Bool := !(k.needsRasAbsent && cfg.haveRas)

/-- The table of 10_state.md R28 read from code to kind: "All other values are reserved." -/
def kindOfFs (code : BitVec 5) : Option FaultKind := FaultKind.all.find? (fun k => k.fs == some code)

/-- The table of 10_state.md R41 read from code to kind. -/
def kindOfStatus (code : BitVec 6) : Option FaultKind := FaultKind.all.find? (fun k => k.status == some code)

/-- The 5-bit code of a value, `v[10] : v[3:0]` (10_state.md R27). -/
def fsOf (v : Word) : BitVec 5 := v.extractLsb' 10 1 ++ v.extractLsb' 0 4

/-- The 6-bit code of a value (10_state.md R41). -/
def statusOf (v : Word) : BitVec 6 := v.extractLsb' 0 6

/-- Bit [9], which says what layout a reported value is in (10_state.md R29). -/
def lpaeOf (v : Word) : Bool := v.getLsbD 9

/-- Decoding a value software has read (10_state.md R43); `none` is `reserved`. -/
def decodeFault (cfg : Config) (v : Word) : Option FaultKind :=
  (if lpaeOf v then kindOfStatus (statusOf v) else kindOfFs (fsOf v)).filter (fun k => k.applies cfg)

end Sys2Proof.Machine
end

