-- ==== Sys2Proof/Machine/Flags.lean ====
section
/-! DEFINITION. The status bits hardware fills on taking a Data Abort, field by field (60_exceptions.md R123 to R130). The
hardware has no condition flags (40_sysreg_access.md R93). -/

namespace Sys2Proof.Machine

/-- 60_exceptions.md R123: valid for `SyncExternal` only and 0 for every other kind, but unknown for `SyncParity` (D12). -/
def fnvField (d : Descriptor) : KBits 1 :=
  if d.kind = .syncExternal then KBits.flag (!d.farValid)
  else if d.kind = .syncParity then KBits.unknown 1
  else KBits.flag false

/-- 60_exceptions.md R124: the environment's `aet` for an `SError` with RAS, else 0b00. -/
def aetField (cfg : Config) (d : Descriptor) : KBits 2 :=
  if cfg.haveRas = true ∧ d.kind = .sError then KBits.known d.aet else KBits.known 0b00#2

/-- 60_exceptions.md R125, cases (a) to (g) in that order. -/
def cmField (d : Descriptor) : KBits 1 :=
  if d.kind.timing = .async then KBits.unknown 1
  else if d.kind.onWalk = true then KBits.unknown 1
  else if d.kind.timing = .impdef then KBits.unknown 1
  else if d.byCmo = true then KBits.flag true
  else if d.byAt = true ∧ d.eae = false then KBits.flag true
  else if d.byAt = true ∧ d.eae = true then KBits.unknown 1
  else KBits.flag false

/-- The kinds the source calls External aborts (60_exceptions.md R126). -/
def FaultKind.isExternalAbort : FaultKind → Bool
  | .syncExternal | .syncExternalTTW1 | .syncExternalTTW2 | .syncExternalTTW3 => true
  | .addressSize0 | .addressSize1 | .addressSize2 | .addressSize3 | .translation1 | .translation2 | .translation3 => false
  | .accessFlag1 | .accessFlag2 | .accessFlag3 | .domain1 | .domain2 | .permission1 | .permission2 | .permission3 => false
  | .sError | .sErrorParity | .syncParity | .syncParityTTW1 | .syncParityTTW2 | .syncParityTTW3 => false
  | .alignment | .debug | .iCacheMaint | .tlbConflict | .lockdown | .unsupportedExclusive => false

/-- The kinds of which the source does not say whether they are External aborts (60_exceptions.md R126, D12). -/
def FaultKind.maybeExternalAbort : FaultKind → Bool
  | .sError | .sErrorParity | .syncParity | .syncParityTTW1 | .syncParityTTW2 | .syncParityTTW3 => true
  | .addressSize0 | .addressSize1 | .addressSize2 | .addressSize3 | .translation1 | .translation2 | .translation3 => false
  | .accessFlag1 | .accessFlag2 | .accessFlag3 | .domain1 | .domain2 | .permission1 | .permission2 | .permission3 => false
  | .syncExternal | .syncExternalTTW1 | .syncExternalTTW2 | .syncExternalTTW3 => false
  | .alignment | .debug | .iCacheMaint | .tlbConflict | .lockdown | .unsupportedExclusive => false

/-- 60_exceptions.md R126. -/
def extField (cfg : Config) (d : Descriptor) : KBits 1 :=
  if cfg.haveExtClass = false then KBits.flag false
  else if d.kind.isExternalAbort = true then KBits.known (Config.extClass d.ext)
  else if d.kind.maybeExternalAbort = true then KBits.unknown 1
  else KBits.flag false

/-- 60_exceptions.md R127, cases (a) to (e) in that order. -/
def wnrField (d : Descriptor) : KBits 1 :=
  if d.byCmo = true ∨ d.byAt = true then KBits.flag true
  else if d.kind.timing = .async then KBits.unknown 1
  else
    match d.access with
    | .write => KBits.flag true
    | .read => KBits.flag false
    | .notStated => KBits.unknown 1

/-- 60_exceptions.md R130: the domain the environment supplies, else four unknown bits (10_state.md R31, D11). -/
def domainField (d : Descriptor) : KBits 4 :=
  match d.domain with
  | some n => KBits.known n
  | none => KBits.unknown 4

end Sys2Proof.Machine
end

