-- ==== Sys2Proof/Machine/Report.lean ====
section
/-! DEFINITION. The report: what hardware writes on taking a Data Abort (60_exceptions.md R120 to R130). -/

namespace Sys2Proof.Machine

/-- Whether `kind` has a code under the layout `eae` (10_state.md R42). -/
def FaultKind.hasCode (k : FaultKind) (eae : Bool) : Bool := if eae then k.status.isSome else k.fs.isSome

/-- 60_exceptions.md R122: what makes a descriptor inadmissible, `none` when it is admissible. -/
def inadmissible (cfg : Config) (inputs : Inputs) (d : Descriptor) : Option Inadmissible :=
  if cellExists cfg inputs d.cell = false then some .cellAbsent
  else if d.kind.hasCode d.eae = false then some .noCode
  else if d.kind.applies cfg = false then some .needsRasAbsent
  else if d.kind = .lockdown ∧ cfg.haveImpdefLockdown = false then some .lockdownAbsent
  else if d.kind = .unsupportedExclusive ∧ cfg.haveImpdefExcl = false then some .exclusiveAbsent
  else if d.byCmo = true ∧ d.byAt = true then some .cmoAndAt
  else none

/-- Bits [31:11] of a report, the same in both layouts (60_exceptions.md R121). -/
def reportHigh (cfg : Config) (d : Descriptor) : KBits 21 :=
  (KBits.known 0#15).append ((fnvField d).append ((aetField cfg d).append ((cmField d).append
    ((extField cfg d).append (wnrField d)))))

/-- Bits [10:0] under `eae == 0`: `code[4] : 0 : 0 : Domain : code[3:0]` (60_exceptions.md R121, R128 to R130). -/
def reportLowShort (d : Descriptor) (code : BitVec 5) : KBits 11 :=
  (KBits.known (code.extractLsb' 4 1)).append ((KBits.known 0#1).append ((KBits.known 0#1).append
    ((domainField d).append (KBits.known (code.extractLsb' 0 4)))))

/-- Bits [10:0] under `eae == 1`: `0 : 1 : 000 : code[5:0]` (60_exceptions.md R121, R128 to R130). -/
def reportLowLong (code : BitVec 6) : KBits 11 :=
  (KBits.known 0#1).append ((KBits.known 1#1).append ((KBits.known 0#3).append (KBits.known code)))

/-- `ReportValue(d)` (60_exceptions.md R121); `none` when the kind has no code under the layout. -/
def reportValue (cfg : Config) (d : Descriptor) : Option KWord :=
  if d.eae then d.kind.status.map (fun code => (reportHigh cfg d).append (reportLowLong code))
  else d.kind.fs.map (fun code => (reportHigh cfg d).append (reportLowShort d code))

/-- The report: `cell <- ReportValue(d)` for an admissible descriptor, else no step (60_exceptions.md R121, R122). -/
def report (d : Descriptor) (s : State) : Answer :=
  match inadmissible s.cfg s.inputs d with
  | some why => .refused (.inadmissible why)
  | none =>
    match reportValue s.cfg d with
    | some v => .next (s.setCell d.cell v)
    | none => .refused (.inadmissible .noCode)

end Sys2Proof.Machine
end

