-- ==== Sys2Proof/Machine/Moves.lean ====
section
/-! DEFINITION. The environment's other moves (60_exceptions.md R145). -/

namespace Sys2Proof.Machine

/-- A write through ESR_EL1 (10_state.md R14; 60_exceptions.md R145, D19): it stores any value, all bits known, in the cell
`DFSR`, and is not filtered by `RES0_POLICY`. When the cells are banked neither copy is mapped, so no cell changes
(DEDUCED, log 11). Under `hardwired` the spec gives the move no meaning. -/
def esrWrite (v : Word) (s : State) : Answer :=
  if banked s.cfg s.inputs then .next s
  else
    match s.cfg.res0Policy with
    | .storage => .next (s.setCell .dfsr (KBits.known v))
    | .hardwired => .refused .esrWriteNeedsStorage

/-- Reset (70_reset_and_hazards.md R160): every cell takes its reset value. The inputs and the general registers are outside
the hardware and are left to a further move (R161; log 17). -/
def resetMove (s : State) : State :=
  ((s.setCell .dfsr (resetCell s.cfg)).setCell .dfsrS (resetCell s.cfg)).setCell .dfsrNS (resetCell s.cfg)

end Sys2Proof.Machine
end

