-- ==== Sys2Proof/Machine/Fetch.lean ====
section
/-! DEFINITION. Running the word of a fetched instruction, and one event (30_encoding.md R76; 60_exceptions.md R145). -/

namespace Sys2Proof.Machine

/-- The PE executes the instruction with this word, read under its instruction-set state; a word that is no access to DFSR is
outside the hardware and is refused by name (30_encoding.md R72, U18). -/
def fetch (w : Word) (s : State) : Answer :=
  match decode s.inputs.iset w with
  | .ok i => exec i s
  | .error e => .refused (.undecoded e)

/-- One event, in a state from which it was already taken. -/
def perform (e : Event) (s : State) : Answer :=
  match e with
  | .fetch w => fetch w s
  | .report d => report d s
  | .esrWrite v => esrWrite v s
  | .reset => .next (resetMove s)
  | .setInputs i => .next (s.setInputs i)
  | .setReg t v => .next (s.setReg t v)

/-- `s` with the table word `w` placed as the very next event, read under the set the word is in (log 13). -/
def placeWord (s : State) (w : Word) : State :=
  { s with inputs := { s.inputs with iset := tableSet w }, events := .fetch w :: s.events }

end Sys2Proof.Machine
end

