-- ==== Sys2Proof/Machine/Step.lean ====
section
/-! DEFINITION. One step, and placing an instruction where the step takes its next one. -/

namespace Sys2Proof.Machine

/-- One step: the oldest event still to come happens. With none, nothing happens (log 2). Where no Exception level supports
AArch32 the register is absent and every step is refused (00_scope.md R3, D20). -/
def step (s : State) : Host.Outcome State Fault Refusal :=
  if s.cfg.haveAnyAArch32 = false then .refused .registerAbsent
  else
    match s.events with
    | [] => .next s
    | e :: rest => perform e (s.setEvents rest)

/-- `s` with the instruction of the word `w` as the very next event. The word is one 32-bit number, as the opcode table numbers
it; the instruction-set state is set to the set it is read under (log 2, log 13). -/
def State.withFetchWord (s : State) (nbits w : Nat) : State := placeWord s (BitVec.ofNat 32 (w % 2 ^ nbits))

end Sys2Proof.Machine
end

