-- ==== Sys2Proof/Safety.lean ====
section
/-! DEFINITION. What claims are stated in: when an access is ready to run, the premises on the inputs, and the invariant of the
cells. -/

namespace Sys2Proof.Machine

/-- The parameters and the operands of an access whose condition passes: AArch32 is supported (00_scope.md R3), the term is an
instruction (30_encoding.md R75, R79), and the condition passes (R80). -/
abbrev Ready (i : Instr) (s : State) : Prop :=
  s.cfg.haveAnyAArch32 = true ∧ i.wf = true ∧ condPasses i.cond s.inputs = true

/-- The premises of 10_state.md section 6 on the inputs (D31): nothing in the model enforces them. -/
abbrev InputsConsistent (cfg : Config) (inputs : Inputs) : Prop :=
  (inputs.el = .el3 → cfg.haveEL3 = true ∧ inputs.el3AArch32 = true) ∧
  (inputs.el = .el2 → inputs.el2AArch32 = true) ∧
  (inputs.el3AArch32 = true → inputs.el2AArch32 = true)

/-- The contents a cell may have: canonical, and under `hardwired` with no bit of `Res0BothMask` that could read as 1
(10_state.md R20, R45). -/
abbrev CellInv (cfg : Config) (c : KWord) : Prop :=
  c.canonical = true ∧ (cfg.res0Policy = .hardwired → (c.val ||| c.unk) &&& res0BothMask cfg = 0#32)

/-- The invariant every step keeps: each cell has contents it may have. -/
def CellsInv (s : State) : Prop := ∀ c : CellName, CellInv s.cfg (s.cell c)

/-- `k` steps, stopping at the first refusal: `Host.Core.run` of this machine, on its own types. -/
def runSteps : Nat → State → Answer
  | 0, s => .next s
  | k + 1, s =>
    match step s with
    | .next s' => runSteps k s'
    | .fault r => .fault r
    | .refused r => .refused r

/-- The event takes the PE to EL3. -/
def Event.entersEl3 : Event → Bool
  | .setInputs i => i.el == .el3
  | .fetch _ => false
  | .report _ => false
  | .esrWrite _ => false
  | .reset => false
  | .setReg _ _ => false

/-- The PE is not at EL3 and no event to come takes it there. -/
abbrev NeverAtEl3 (s : State) : Prop := s.inputs.el ≠ .el3 ∧ ∀ e ∈ s.events, e.entersEl3 = false

/-- The two states agree on everything but the Secure copy. -/
abbrev AgreeButSecure (s t : State) : Prop := { s with dfsrS := t.dfsrS } = t

/-- The two answers are of the same sort and agree on everything but the Secure copy. -/
def AnswersAgreeButSecure (a b : Answer) : Prop :=
  match a, b with
  | .next s, .next t => AgreeButSecure s t
  | .refused r, .refused q => r = q
  | .fault r, .fault q => r = q
  | .next _, .refused _ => False
  | .next _, .fault _ => False
  | .refused _, .next _ => False
  | .refused _, .fault _ => False
  | .fault _, .next _ => False
  | .fault _, .refused _ => False

end Sys2Proof.Machine
end

