-- ==== Sys2Proof/Certificates/Slice0/Obligations.lean ====
section
/-! DEFINITION. The statements for the provers, in the order of OBLIGATIONS.json, after the vocabulary they share. -/

namespace Sys2Proof.Claims

open Sys2Proof.Machine

/-! What an access or a move leaves unchanged. -/

/-- Only `x[t]`, the count of draws and the response may differ. -/
def OnlyRegister (t : Fin 15) (s s' : State) : Prop :=
  (∀ u : Fin 15, u ≠ t → s'.reg u = s.reg u) ∧ (∀ c : CellName, s'.cell c = s.cell c) ∧
    s'.cfg = s.cfg ∧ s'.inputs = s.inputs ∧ s'.events = s.events

/-- Only the cell `c` and the response may differ. -/
def OnlyCell (c : CellName) (s s' : State) : Prop :=
  (∀ d : CellName, d ≠ c → s'.cell d = s.cell d) ∧ (∀ u : Fin 15, s'.reg u = s.reg u) ∧
    s'.cfg = s.cfg ∧ s'.inputs = s.inputs ∧ s'.events = s.events ∧ s'.draws = s.draws

/-- Only the response and the count of draws may differ. -/
def OnlyResponse (s s' : State) : Prop :=
  (∀ c : CellName, s'.cell c = s.cell c) ∧ (∀ u : Fin 15, s'.reg u = s.reg u) ∧
    s'.cfg = s.cfg ∧ s'.inputs = s.inputs ∧ s'.events = s.events

/-- A bit that is RES0 under both layouts (10_state.md R20): [31:17], [8], [15:14] without RAS, [12] without
classification. -/
def ReservedBit (cfg : Config) (k : Nat) : Prop :=
  17 ≤ k ∨ k = 8 ∨ (cfg.haveRas = false ∧ (k = 14 ∨ k = 15)) ∨ (cfg.haveExtClass = false ∧ k = 12)

/-! The access pseudocode, transcribed arm by arm (40_sysreg_access.md R91, R92). -/

/-- What an arm of the pseudocode does. -/
inductive Arm where
  /-- `UNDEFINED;` -/
  | undefined
  /-- `AArch64.AArch32SystemAccessTrap(EL2, 0x03);` -/
  | aarch64Trap
  /-- `AArch32.TakeHypTrapException(0x03);` -/
  | hypTrap
  /-- `return <cell>;` or `<cell> = R[t];` -/
  | cell (c : CellName)

/-- 40_sysreg_access.md R91. -/
def readPseudocode (haveEL3 : Bool) (i : Inputs) : Arm :=
  if i.el = .el0 then .undefined
  else if i.el = .el1 then
    if i.el2Enabled = true ∧ i.el2AArch32 = false ∧ i.hstrEl2T5 = true then .aarch64Trap
    else if i.el2Enabled = true ∧ i.el2AArch32 = true ∧ i.hstrT5 = true then .hypTrap
    else if i.el2Enabled = true ∧ i.el2AArch32 = false ∧ i.hcrEl2Trvm = true then .aarch64Trap
    else if i.el2Enabled = true ∧ i.el2AArch32 = true ∧ i.hcrTrvm = true then .hypTrap
    else if haveEL3 = true ∧ i.el3AArch32 = true then .cell .dfsrNS
    else .cell .dfsr
  else if i.el = .el2 then
    if haveEL3 = true ∧ i.el3AArch32 = true then .cell .dfsrNS
    else .cell .dfsr
  else if i.scrNS = false then .cell .dfsrS
  else .cell .dfsrNS

/-- 40_sysreg_access.md R92. -/
def writePseudocode (haveEL3 : Bool) (i : Inputs) : Arm :=
  if i.el = .el0 then .undefined
  else if i.el = .el1 then
    if i.el2Enabled = true ∧ i.el2AArch32 = false ∧ i.hstrEl2T5 = true then .aarch64Trap
    else if i.el2Enabled = true ∧ i.el2AArch32 = true ∧ i.hstrT5 = true then .hypTrap
    else if i.el2Enabled = true ∧ i.el2AArch32 = false ∧ i.hcrEl2Tvm = true then .aarch64Trap
    else if i.el2Enabled = true ∧ i.el2AArch32 = true ∧ i.hcrTvm = true then .hypTrap
    else if haveEL3 = true ∧ i.el3AArch32 = true then .cell .dfsrNS
    else .cell .dfsr
  else if i.el = .el2 then
    if haveEL3 = true ∧ i.el3AArch32 = true then .cell .dfsrNS
    else .cell .dfsr
  else if i.scrNS = false then .cell .dfsrS
  else .cell .dfsrNS

/-- The state an arm leads to, `done c` being the state after the transfer with the cell `c`. -/
def afterArm (s : State) (done : CellName → State) : Arm → State
  | .undefined => { s with response := some .undefined }
  | .aarch64Trap => { s with response := some (.trapEL2 true 0x03#8) }
  | .hypTrap => { s with response := some (.trapEL2 false 0x03#8) }
  | .cell c => done c

/-! The two code tables, transcribed row by row. -/

/-- 10_state.md R28, its 22 rows. -/
def fsRows : List (BitVec 5 × FaultKind) :=
  [(0b00001#5, .alignment), (0b00010#5, .debug), (0b00011#5, .accessFlag1), (0b00100#5, .iCacheMaint),
   (0b00101#5, .translation1), (0b00110#5, .accessFlag2), (0b00111#5, .translation2), (0b01000#5, .syncExternal),
   (0b01001#5, .domain1), (0b01011#5, .domain2), (0b01100#5, .syncExternalTTW1), (0b01101#5, .permission1),
   (0b01110#5, .syncExternalTTW2), (0b01111#5, .permission2), (0b10000#5, .tlbConflict), (0b10100#5, .lockdown),
   (0b10101#5, .unsupportedExclusive), (0b10110#5, .sError), (0b11000#5, .sErrorParity), (0b11001#5, .syncParity),
   (0b11100#5, .syncParityTTW1), (0b11110#5, .syncParityTTW2)]

/-- 10_state.md R41, its 28 rows. -/
def statusRows : List (BitVec 6 × FaultKind) :=
  [(0b000000#6, .addressSize0), (0b000001#6, .addressSize1), (0b000010#6, .addressSize2), (0b000011#6, .addressSize3),
   (0b000101#6, .translation1), (0b000110#6, .translation2), (0b000111#6, .translation3), (0b001001#6, .accessFlag1),
   (0b001010#6, .accessFlag2), (0b001011#6, .accessFlag3), (0b001101#6, .permission1), (0b001110#6, .permission2),
   (0b001111#6, .permission3), (0b010000#6, .syncExternal), (0b010001#6, .sError), (0b010101#6, .syncExternalTTW1),
   (0b010110#6, .syncExternalTTW2), (0b010111#6, .syncExternalTTW3), (0b011000#6, .syncParity),
   (0b011001#6, .sErrorParity), (0b011101#6, .syncParityTTW1), (0b011110#6, .syncParityTTW2),
   (0b011111#6, .syncParityTTW3), (0b100001#6, .alignment), (0b100010#6, .debug), (0b110000#6, .tlbConflict),
   (0b110100#6, .lockdown), (0b110101#6, .unsupportedExclusive)]

/-- The rows both tables mark "When RAS is not implemented". -/
def rasAbsentRows : List FaultKind :=
  [.sErrorParity, .syncParity, .syncParityTTW1, .syncParityTTW2, .syncParityTTW3]

end Sys2Proof.Claims

section Statements

open Sys2Proof Sys2Proof.Machine Sys2Proof.Claims

/-! ## The access check: exceptions, privilege, pseudocode -/

/-- 60_exceptions.md R110: an access (`mrcA32`, `mcrA32`, `mrcT32`, `mcrT32`) at EL0 is UNDEFINED whatever the trap controls and
the configuration are, and changes nothing. -/
def Obligations.AccessFromEl0IsUndefined : Prop :=
  ∀ (i : Instr) (s : State), Ready i s → s.inputs.el = .el0 →
    exec i s = .next { s with response := some .undefined }

/-- 60_exceptions.md R111, for the two reads and the two writes. -/
def Obligations.AArch64TrapFromEl1 : Prop :=
  ∀ (i : Instr) (s : State), Ready i s → s.inputs.el = .el1 → s.inputs.el2Enabled = true → s.inputs.el2AArch32 = false →
    (s.inputs.hstrEl2T5 = true ∨ (i.dir = .read ∧ s.inputs.hcrEl2Trvm = true) ∨
      (i.dir = .write ∧ s.inputs.hcrEl2Tvm = true)) →
    exec i s = .next { s with response := some (.trapEL2 true 0x03#8) }

/-- 60_exceptions.md R112, for the two reads and the two writes. -/
def Obligations.HypTrapFromEl1 : Prop :=
  ∀ (i : Instr) (s : State), Ready i s → s.inputs.el = .el1 → s.inputs.el2Enabled = true → s.inputs.el2AArch32 = true →
    (s.inputs.hstrT5 = true ∨ (i.dir = .read ∧ s.inputs.hcrTrvm = true) ∨
      (i.dir = .write ∧ s.inputs.hcrTvm = true)) →
    exec i s = .next { s with response := some (.trapEL2 false 0x03#8) }

/-- 60_exceptions.md R114, its table read both ways: an access traps to EL2 exactly when it comes from EL1, `EL2Enabled()` is
true, and a control that acts on its direction is set in the view that matches `ELUsingAArch32(EL2)`. -/
def Obligations.TrapControlsActFromEl1Only : Prop :=
  ∀ (i : Instr) (s : State), Ready i s → ∃ s' : State, exec i s = .next s' ∧
    ∀ (aarch64 : Bool) (ec : BitVec 8), s'.response = some (.trapEL2 aarch64 ec) ↔
      ec = 0x03#8 ∧ s.inputs.el = .el1 ∧ s.inputs.el2Enabled = true ∧ s.inputs.el2AArch32 = !aarch64 ∧
        (if aarch64 then
          s.inputs.hstrEl2T5 = true ∨ (i.dir = .read ∧ s.inputs.hcrEl2Trvm = true) ∨
            (i.dir = .write ∧ s.inputs.hcrEl2Tvm = true)
        else
          s.inputs.hstrT5 = true ∨ (i.dir = .read ∧ s.inputs.hcrTrvm = true) ∨
            (i.dir = .write ∧ s.inputs.hcrTvm = true))

/-- The access completes with the cell `c`: a read leaves the cell's bits in `x[t]`, a write leaves `Stored(x[t])` in the
cell. -/
def Sys2Proof.Claims.CompletesWith (i : Instr) (s : State) (c : CellName) : Prop :=
  ∃ (t : Fin 15) (s' : State), t.val = i.rt.toNat ∧ exec i s = .next s' ∧ s'.response = some .completed ∧
    (i.dir = .read → s'.reg t = (s.cell c).read (Config.draw s.draws)) ∧
    (i.dir = .write → s'.cell c = KBits.known (stored s.cfg (s.reg t)))

/-- 60_exceptions.md R140: what each Exception level may do. EL0 neither reads nor writes; EL1 does unless EL2 traps the
access; EL2 always does, and reaches `DFSR_NS` when the cells are banked; EL3 always does, and chooses the copy with
`SCR.NS`. What a completed access moves rests on the spec's own choices D5 (an unknown bit reads as a fresh draw) and D7
(`RES0_POLICY`). For `mrcA32`, `mcrA32`, `mrcT32`, `mcrT32`. -/
def Obligations.PrivilegeDecidesAccess : Prop :=
  ∀ (i : Instr) (s : State), Ready i s →
    (s.inputs.el = .el0 → exec i s = .next { s with response := some .undefined }) ∧
    (s.inputs.el = .el1 →
      (s.inputs.el2Enabled = true → s.inputs.el2AArch32 = false →
        s.inputs.hstrEl2T5 = false ∧ (i.dir = .read → s.inputs.hcrEl2Trvm = false) ∧
          (i.dir = .write → s.inputs.hcrEl2Tvm = false)) →
      (s.inputs.el2Enabled = true → s.inputs.el2AArch32 = true →
        s.inputs.hstrT5 = false ∧ (i.dir = .read → s.inputs.hcrTrvm = false) ∧
          (i.dir = .write → s.inputs.hcrTvm = false)) →
      CompletesWith i s (if s.cfg.haveEL3 = true ∧ s.inputs.el3AArch32 = true then .dfsrNS else .dfsr)) ∧
    (s.inputs.el = .el2 →
      CompletesWith i s (if s.cfg.haveEL3 = true ∧ s.inputs.el3AArch32 = true then .dfsrNS else .dfsr)) ∧
    (s.inputs.el = .el3 → CompletesWith i s (if s.inputs.scrNS = false then .dfsrS else .dfsrNS))

/-- `mrcA32` and `mrcT32` do what the read pseudocode says, arm by arm (40_sysreg_access.md R91). That the value returned goes
to `R[t]` is the spec's own inference there, and the draw for an unknown bit is 10_state.md R13 (D5). -/
def Obligations.ReadFollowsPseudocode : Prop :=
  ∀ (i : Instr) (s : State) (t : Fin 15), i.dir = .read → Ready i s → t.val = i.rt.toNat →
    exec i s = .next (afterArm s
      (fun c => { s with x := s.x.set t ((s.cell c).read (Config.draw s.draws)), draws := s.draws + 1,
                         response := some .completed })
      (readPseudocode s.cfg.haveEL3 s.inputs))

/-- `mcrA32` and `mcrT32` do what the write pseudocode says, arm by arm (40_sysreg_access.md R92), storing
`Stored(R[t])` (R95). -/
def Obligations.WriteFollowsPseudocode : Prop :=
  ∀ (i : Instr) (s : State) (t : Fin 15), i.dir = .write → Ready i s → t.val = i.rt.toNat →
    exec i s = .next (afterArm s
      (fun c => { s.setCell c (KBits.known (stored s.cfg (s.reg t))) with response := some .completed })
      (writePseudocode s.cfg.haveEL3 s.inputs))

/-! ## The transfers and their frames -/

/-- `mrcA32` and `mrcT32` (40_sysreg_access.md R94): an access whose check gives the cell `c` completes; each bit of `x[t]` is
the cell's bit where that is known and a fresh draw where it is not; no cell and no other register changes. -/
def Obligations.MrcReadsSelectedCell : Prop :=
  ∀ (i : Instr) (s : State) (t : Fin 15) (c : CellName), i.dir = .read → Ready i s → t.val = i.rt.toNat →
    checkAccess .read s.cfg s.inputs = .cell c →
    ∃ s' : State, exec i s = .next s' ∧ s'.response = some .completed ∧ s'.draws = s.draws + 1 ∧
      (∀ k : Nat, k < 32 → (s'.reg t).getLsbD k =
        match (s.cell c).bit k with
        | some b => b
        | none => (Config.draw s.draws).getLsbD k) ∧
      OnlyRegister t s s'

/-- `mcrA32` and `mcrT32` (40_sysreg_access.md R95): an access whose check gives the cell `c` completes; every bit of the cell
becomes known and is the bit of `x[t]`, but 0 where it is reserved under both layouts and `RES0_POLICY` is `hardwired`;
nothing else changes. -/
def Obligations.McrStoresRegister : Prop :=
  ∀ (i : Instr) (s : State) (t : Fin 15) (c : CellName), i.dir = .write → Ready i s → t.val = i.rt.toNat →
    checkAccess .write s.cfg s.inputs = .cell c →
    ∃ s' : State, exec i s = .next s' ∧ s'.response = some .completed ∧
      (∀ k : Nat, k < 32 →
        (s.cfg.res0Policy = .hardwired → ReservedBit s.cfg k → (s'.cell c).bit k = some false) ∧
        (s.cfg.res0Policy = .storage ∨ ¬ ReservedBit s.cfg k → (s'.cell c).bit k = some ((s.reg t).getLsbD k))) ∧
      OnlyCell c s s'

/-- 30_encoding.md R80 (D4), for all four instructions: an access whose condition fails moves nothing, and its outcome is
either no exception or the one its checks give. Which of the two is a free value (log 8). -/
def Obligations.FailedConditionMovesNothing : Prop :=
  ∀ (i : Instr) (s : State), s.cfg.haveAnyAArch32 = true → i.wf = true → condPasses i.cond s.inputs = false →
    ∃ s' : State, exec i s = .next s' ∧ OnlyResponse s s' ∧
      (s'.response = some .completed ∨
        (checkAccess i.dir s.cfg s.inputs = .undefined ∧ s'.response = some .undefined) ∨
        ∃ aarch64 : Bool, checkAccess i.dir s.cfg s.inputs = .trap aarch64 ∧
          s'.response = some (.trapEL2 aarch64 0x03#8))

/-- 60_exceptions.md R113: whichever instruction it is, an access that raises an exception outcome changes no cell, no general
register and no input. That the inputs stay too is the model's choice (DESIGN CHOICE, log 3): what exception entry changes
is outside the hardware (D30). -/
def Obligations.ExceptionChangesNothing : Prop :=
  ∀ (i : Instr) (s s' : State), exec i s = .next s' → s'.response ≠ some .completed → OnlyResponse s s'

/-- 40_sysreg_access.md R97: what an `MCR` stores, the next `MRC` of the same cell returns, with no draw involved. Between the
two anything may happen that leaves the cell alone. -/
def Obligations.WriteThenReadReturnsStored : Prop :=
  ∀ (w r : Instr) (s s1 s2 s3 : State) (c : CellName) (tw tr : Fin 15),
    w.dir = .write → Ready w s → tw.val = w.rt.toNat → checkAccess .write s.cfg s.inputs = .cell c →
    exec w s = .next s1 → s2.cell c = s1.cell c →
    r.dir = .read → Ready r s2 → tr.val = r.rt.toNat → checkAccess .read s2.cfg s2.inputs = .cell c →
    exec r s2 = .next s3 →
    s3.reg tr = stored s.cfg (s.reg tw)

/-- 40_sysreg_access.md R98: an access changes at most one cell, and it changes `DFSR_S` only from EL3 with `SCR.NS == 0`. -/
def Obligations.CopiesAreIndependent : Prop :=
  ∀ (i : Instr) (s s' : State), exec i s = .next s' →
    (∀ c d : CellName, c ≠ d → s'.cell c = s.cell c ∨ s'.cell d = s.cell d) ∧
    (s'.cell .dfsrS ≠ s.cell .dfsrS → s.inputs.el = .el3 ∧ s.inputs.scrNS = false)

/-- 60_exceptions.md R141: code below EL3 can never observe `DFSR_S`. Two runs that start alike but for the Secure copy, and
never reach EL3, stay alike but for the Secure copy, whatever instructions and moves they hold. -/
def Obligations.SecureCopyIsNeverObserved : Prop :=
  ∀ (k : Nat) (s t : State), NeverAtEl3 s → AgreeButSecure s t →
    AnswersAgreeButSecure (runSteps k s) (runSteps k t)

/-- 40_sysreg_access.md R99: at EL2 and EL3, and when `EL2Enabled()` is false, the check reads no trap control (the result is the
same whatever they are) and never traps. -/
def Obligations.CheckReadsNoControlWithoutEl2 : Prop :=
  ∀ (dir : Dir) (cfg : Config) (i j : Inputs), i.el = j.el → i.el3AArch32 = j.el3AArch32 → i.scrNS = j.scrNS →
    (i.el = .el2 ∨ i.el = .el3 ∨ (i.el2Enabled = false ∧ j.el2Enabled = false)) →
    checkAccess dir cfg i = checkAccess dir cfg j ∧ (∀ aarch64 : Bool, checkAccess dir cfg i ≠ .trap aarch64)

/-- 10_state.md R12 (D32): the translation table format does not change what an access returns or stores. -/
def Obligations.AccessIgnoresTableFormat : Prop :=
  ∀ (i : Instr) (s : State) (b : Bool),
    exec i { s with inputs := { s.inputs with ttbcrEae := b } } =
      match exec i s with
      | .next s' => .next { s' with inputs := { s'.inputs with ttbcrEae := b } }
      | .refused r => .refused r
      | .fault f => .fault f

/-- 10_state.md R11: under the premises of its section 6 an access reaches only a cell that exists. -/
def Obligations.AccessReachesExistingCell : Prop :=
  ∀ (dir : Dir) (cfg : Config) (inputs : Inputs) (c : CellName), InputsConsistent cfg inputs →
    checkAccess dir cfg inputs = .cell c →
    (c = .dfsr ↔ ¬ (cfg.haveEL3 = true ∧ inputs.el3AArch32 = true))

/-- 40_sysreg_access.md R94 corner case (c): under `hardwired` an `MRC` (`mrcA32`, `mrcT32`) reads 0 in every bit that is
reserved under both layouts, in every state the invariant admits. -/
def Obligations.HardwiredBitsReadZero : Prop :=
  ∀ (i : Instr) (s : State) (t : Fin 15) (c : CellName), CellsInv s → s.cfg.res0Policy = .hardwired → i.dir = .read →
    Ready i s → t.val = i.rt.toNat → checkAccess .read s.cfg s.inputs = .cell c →
    ∃ s' : State, exec i s = .next s' ∧ ∀ k : Nat, ReservedBit s.cfg k → (s'.reg t).getLsbD k = false

/-! ## Encoding -/

/-- Every well-formed instruction is read back from its word, every operand at every value. -/
def Obligations.DecodeOfEncode : Prop :=
  ∀ i : Instr, i.wf = true → decode i.iset (encode i) = .ok i

/-- A word the decoder reads is the word of the instruction it reads, which is well-formed and of the set it was read
under. -/
def Obligations.EncodeOfDecode : Prop :=
  ∀ (set : ISet) (w : Word) (i : Instr), decode set w = .ok i → i.wf = true ∧ i.iset = set ∧ encode i = w

/-- 30_encoding.md R77: the words the decoder reads are those of the four match and mask rows, with the condition and register
numbers the rows exclude left out. -/
def Obligations.WordsAreTableRows : Prop :=
  ∀ w : Word,
    ((∃ i : Instr, decode .a32 w = .ok i ∧ i.dir = .read) ↔
      w &&& 0x0FFF0FFF#32 = 0x0E150F10#32 ∧ w.extractLsb' 28 4 ≠ 15#4 ∧ w.extractLsb' 12 4 ≠ 15#4) ∧
    ((∃ i : Instr, decode .a32 w = .ok i ∧ i.dir = .write) ↔
      w &&& 0x0FFF0FFF#32 = 0x0E050F10#32 ∧ w.extractLsb' 28 4 ≠ 15#4 ∧ w.extractLsb' 12 4 ≠ 15#4) ∧
    ((∃ i : Instr, decode .t32 w = .ok i ∧ i.dir = .read) ↔
      w &&& 0xFFFF0FFF#32 = 0xEE150F10#32 ∧ w.extractLsb' 12 4 ≠ 15#4 ∧ w.extractLsb' 12 4 ≠ 13#4) ∧
    ((∃ i : Instr, decode .t32 w = .ok i ∧ i.dir = .write) ↔
      w &&& 0xFFFF0FFF#32 = 0xEE050F10#32 ∧ w.extractLsb' 12 4 ≠ 15#4 ∧ w.extractLsb' 12 4 ≠ 13#4)

/-- 30_encoding.md R72 (D1): in the layout of R75, an access is to DFSR if and only if its five fields have DFSR's values; any
other combination is refused by name. -/
def Obligations.FiveFieldsSelectDfsr : Prop :=
  ∀ (top : BitVec 4) (a : Access), top ≠ 15#4 → a.rt ≠ 15#4 →
    (a.coproc = 0b1111#4 ∧ a.opc1 = 0b000#3 ∧ a.crn = 0b0101#4 ∧ a.crm = 0b0000#4 ∧ a.opc2 = 0b000#3 →
      ∃ i : Instr, decode .a32 (accessWord top a) = .ok i ∧ i.dir = a.dir ∧ i.rt = a.rt ∧ i.cond = some top) ∧
    (¬ (a.coproc = 0b1111#4 ∧ a.opc1 = 0b000#3 ∧ a.crn = 0b0101#4 ∧ a.crm = 0b0000#4 ∧ a.opc2 = 0b000#3) →
      decode .a32 (accessWord top a) = .error (.otherRegister a))

/-- Words of 95_test_vectors.md section 2.1: a sanity check of the layout of 30_encoding.md R75 and R76. -/
def Obligations.SampleWordsDecode : Prop :=
  decode .a32 0xEE153F10#32 = .ok (.mrcA32 14#4 3#4) ∧ decode .a32 0xEE05CF10#32 = .ok (.mcrA32 14#4 12#4) ∧
    decode .a32 0x1E152F10#32 = .ok (.mrcA32 1#4 2#4) ∧ decode .a32 0x0E055F10#32 = .ok (.mcrA32 0#4 5#4) ∧
    decode .t32 0xEE15EF10#32 = .ok (.mrcT32 14#4) ∧ decode .t32 0xEE05EF10#32 = .ok (.mcrT32 14#4)

/-- 30_encoding.md R76: a T32 word, read as `hw1 : hw2`, is the A32 word of the same access with condition 0b1110. -/
def Obligations.T32WordIsA32Always : Prop :=
  ∀ (hw1 hw2 : BitVec 16) (i : Instr), decodeHalfwords hw1 hw2 = .ok i →
    decode .a32 (hw1 ++ hw2) = .ok (Instr.ofParts .a32 i.dir 14#4 i.rt)

/-- 30_encoding.md R79 (D3): register number 15 is refused in both sets and 13 in T32, by the meanings as by the decoder. -/
def Obligations.UnadmittedRegisterIsRefused : Prop :=
  ∀ (s : State) (cond : BitVec 4), s.cfg.haveAnyAArch32 = true → cond ≠ 15#4 →
    exec (.mrcA32 cond 15#4) s = .refused (.rtNotAdmitted 15#4) ∧
    exec (.mcrA32 cond 15#4) s = .refused (.rtNotAdmitted 15#4) ∧
    (∀ rt : BitVec 4, rt = 13#4 ∨ rt = 15#4 →
      exec (.mrcT32 rt) s = .refused (.rtNotAdmitted rt) ∧ exec (.mcrT32 rt) s = .refused (.rtNotAdmitted rt)) ∧
    (∀ dir : Dir, decode .a32 (accessWord cond (dfsrAccess dir 15#4)) = .error (.rtNotAdmitted 15#4))

/-- 30_encoding.md R73 (the spec's general knowledge, G11): a line for DFSR assembles to the word of its instruction, whatever
its qualifier; an absent condition is 0b1110 and an absent `<opc2>` is 0. -/
def Obligations.AssemblerLineNamesInstruction : Prop :=
  ∀ l : AsmLine, l.coproc = 15#4 → l.opc1 = 0#3 → l.crn = 5#4 → l.crm = 0#4 → (l.opc2 = none ∨ l.opc2 = some 0#3) →
    l.c ≠ some 15#4 → l.rt ≠ 15#4 →
    decode .a32 l.wordA32 = .ok (Instr.ofParts .a32 l.dir (l.c.getD 14#4) l.rt) ∧
    (l.rt ≠ 13#4 → decode .t32 l.wordT32 = .ok (Instr.ofParts .t32 l.dir 14#4 l.rt))

/-! ## The report -/

/-- 60_exceptions.md R121: an admissible report writes the whole cell it names with a value that depends on the parameters and
the descriptor alone, so no bit of the old contents is kept; nothing else changes. That the inputs and the registers stay is
the model's choice (DESIGN CHOICE, log 3): what taking the Data Abort changes besides is outside the hardware (R137). -/
def Obligations.ReportReplacesCell : Prop :=
  ∀ (cfg : Config) (d : Descriptor), ∃ v : KWord, ∀ s : State, s.cfg = cfg → inadmissible cfg s.inputs d = none →
    ∃ s' : State, perform (.report d) s = .next s' ∧ s'.cell d.cell = v ∧ s'.response = s.response ∧
      OnlyCell d.cell s s'

/-- 60_exceptions.md R122 (D15, D16, D17): exactly when a report has a step; an inadmissible descriptor is refused. -/
def Obligations.ReportIsAdmissibleExactly : Prop :=
  ∀ (d : Descriptor) (s : State),
    ((∃ s' : State, perform (.report d) s = .next s') ↔
      (d.cell = .dfsr ↔ ¬ (s.cfg.haveEL3 = true ∧ s.inputs.el3AArch32 = true)) ∧
      (d.eae = false → ∃ code, (code, d.kind) ∈ fsRows) ∧ (d.eae = true → ∃ code, (code, d.kind) ∈ statusRows) ∧
      (d.kind ∈ rasAbsentRows → s.cfg.haveRas = false) ∧
      (d.kind = .lockdown → s.cfg.haveImpdefLockdown = true) ∧
      (d.kind = .unsupportedExclusive → s.cfg.haveImpdefExcl = true) ∧
      ¬ (d.byCmo = true ∧ d.byAt = true)) ∧
    ((∃ s' : State, perform (.report d) s = .next s') ∨
      ∃ why : Inadmissible, perform (.report d) s = .refused (.inadmissible why))

/-- 60_exceptions.md R123 (its case `SyncParity` is the spec's own choice, D12): FnV, bit [16]. -/
def Obligations.ReportFnv : Prop :=
  ∀ (d : Descriptor) (s s' : State), perform (.report d) s = .next s' →
    (s'.cell d.cell).bit 16 =
      if d.kind = .syncExternal then some (!d.farValid) else if d.kind = .syncParity then none else some false

/-- 60_exceptions.md R124: AET, bits [15:14]. -/
def Obligations.ReportAet : Prop :=
  ∀ (d : Descriptor) (s s' : State), perform (.report d) s = .next s' →
    (s.cfg.haveRas = true → d.kind = .sError →
      (s'.cell d.cell).bit 15 = some (d.aet.getLsbD 1) ∧ (s'.cell d.cell).bit 14 = some (d.aet.getLsbD 0)) ∧
    (¬ (s.cfg.haveRas = true ∧ d.kind = .sError) →
      (s'.cell d.cell).bit 15 = some false ∧ (s'.cell d.cell).bit 14 = some false)

/-- 60_exceptions.md R125 (its cases (c) and (f), and the reading of "on a translation table walk", are the spec's own choices,
D14): CM, bit [13]. -/
def Obligations.ReportCm : Prop :=
  ∀ (d : Descriptor) (s s' : State), perform (.report d) s = .next s' →
    (s'.cell d.cell).bit 13 =
      if d.kind ∈ [.sError, .sErrorParity, .syncExternalTTW1, .syncExternalTTW2, .syncExternalTTW3, .syncParityTTW1,
          .syncParityTTW2, .syncParityTTW3, .lockdown, .unsupportedExclusive] then none
      else if d.byCmo = true then some true
      else if d.byAt = true then (if d.eae = true then none else some true)
      else some false

/-- 60_exceptions.md R126 (its unknown cases are the spec's own choice, D12): ExT, bit [12]. `Config.extClass` has no value, so
this holds of every classification. -/
def Obligations.ReportExt : Prop :=
  ∀ (d : Descriptor) (s s' : State), perform (.report d) s = .next s' →
    (s'.cell d.cell).bit 12 =
      if s.cfg.haveExtClass = false then some false
      else if d.kind ∈ [.syncExternal, .syncExternalTTW1, .syncExternalTTW2, .syncExternalTTW3] then
        some ((Config.extClass d.ext).getLsbD 0)
      else if d.kind ∈ [.sError, .sErrorParity, .syncParity, .syncParityTTW1, .syncParityTTW2, .syncParityTTW3] then none
      else some false

/-- 60_exceptions.md R127 (its cases (b) and (e) are the spec's own choice, D13): WnR, bit [11]. -/
def Obligations.ReportWnr : Prop :=
  ∀ (d : Descriptor) (s s' : State), perform (.report d) s = .next s' →
    (s'.cell d.cell).bit 11 =
      if d.byCmo = true ∨ d.byAt = true then some true
      else if d.kind = .sError ∨ d.kind = .sErrorParity then none
      else if d.access = .write then some true
      else if d.access = .read then some false
      else none

/-- 60_exceptions.md R128: the status code, always known: FS[4] in bit [10] and FS[3:0] in bits [3:0] under the
Short-descriptor layout, STATUS in bits [5:0] and 0 in bit [10] under the Long-descriptor layout, where the code is the one
the row of `d.kind` in 10_state.md R28 or R41 gives. -/
def Obligations.ReportStatusCode : Prop :=
  ∀ (d : Descriptor) (s s' : State), perform (.report d) s = .next s' →
    (d.eae = false → ∀ code : BitVec 5, (code, d.kind) ∈ fsRows →
      (s'.cell d.cell).bit 10 = some (code.getLsbD 4) ∧
      ∀ k : Nat, k < 4 → (s'.cell d.cell).bit k = some (code.getLsbD k)) ∧
    (d.eae = true → ∀ code : BitVec 6, (code, d.kind) ∈ statusRows →
      (s'.cell d.cell).bit 10 = some false ∧ ∀ k : Nat, k < 6 → (s'.cell d.cell).bit k = some (code.getLsbD k))

/-- 60_exceptions.md R129: LPAE, bit [9], says which layout a report used. -/
def Obligations.ReportLpae : Prop :=
  ∀ (d : Descriptor) (s s' : State), perform (.report d) s = .next s' → (s'.cell d.cell).bit 9 = some d.eae

/-- 60_exceptions.md R130 (zero for RES0 bits and the unknown Domain are the spec's own choices, D8 and D11): the remaining
bits. -/
def Obligations.ReportRemainingBits : Prop :=
  ∀ (d : Descriptor) (s s' : State), perform (.report d) s = .next s' →
    (∀ k : Nat, 17 ≤ k ∧ k < 32 ∨ k = 8 → (s'.cell d.cell).bit k = some false) ∧
    (d.eae = true → (s'.cell d.cell).bit 7 = some false ∧ (s'.cell d.cell).bit 6 = some false) ∧
    (d.eae = false → ∀ k : Nat, k < 4 →
      (s'.cell d.cell).bit (4 + k) =
        match d.domain with
        | some n => some (n.getLsbD k)
        | none => none)

/-- 10_state.md R43 and 60_exceptions.md R132: whatever its unknown bits read as, a reported value decodes to the kind that
was reported, by the layout its own LPAE bit names. -/
def Obligations.ReportDecodesToItsKind : Prop :=
  ∀ (d : Descriptor) (s s' : State) (draw : Word), perform (.report d) s = .next s' →
    decodeFault s.cfg ((s'.cell d.cell).read draw) = some d.kind ∧ lpaeOf ((s'.cell d.cell).read draw) = d.eae

/-- 10_state.md R28: the Short-descriptor codes; every value without a row, and (D16) a row marked "When RAS is not
implemented" while RAS is, decodes to `reserved`. -/
def Obligations.ShortCodesDecodeByTable : Prop :=
  ∀ (cfg : Config) (v : Word) (k : FaultKind), v.getLsbD 9 = false →
    (decodeFault cfg v = some k ↔
      (v.extractLsb' 10 1 ++ v.extractLsb' 0 4, k) ∈ fsRows ∧ ¬ (k ∈ rasAbsentRows ∧ cfg.haveRas = true))

/-- 10_state.md R41: the Long-descriptor codes, in the same way. -/
def Obligations.LongCodesDecodeByTable : Prop :=
  ∀ (cfg : Config) (v : Word) (k : FaultKind), v.getLsbD 9 = true →
    (decodeFault cfg v = some k ↔
      (v.extractLsb' 0 6, k) ∈ statusRows ∧ ¬ (k ∈ rasAbsentRows ∧ cfg.haveRas = true))

/-! ## The other moves, reset and the whole machine -/

/-- 10_state.md R14 and 60_exceptions.md R145 (D19): where DFSR is not banked, a write through ESR_EL1 stores its 32 bits in
`DFSR`, all known and not filtered, and ESR_EL1[31:0] then reads the same; nothing else changes. -/
def Obligations.EsrWriteStoresInDfsr : Prop :=
  ∀ (s : State) (v : Word), ¬ (s.cfg.haveEL3 = true ∧ s.inputs.el3AArch32 = true) → s.cfg.res0Policy = .storage →
    ∃ s' : State, perform (.esrWrite v) s = .next s' ∧ s'.dfsr.read 0#32 = v ∧ s'.dfsr.unk = 0#32 ∧
      s'.esrEl1 = some s'.dfsr ∧ s'.response = s.response ∧ OnlyCell .dfsr s s'

/-- Log 11: where the cells are banked, neither copy is mapped onto ESR_EL1 (10_state.md R14, D19), and under `hardwired` the
move has no meaning (60_exceptions.md R145). -/
def Obligations.EsrWriteReachesNoOtherCell : Prop :=
  ∀ (s : State) (v : Word),
    (s.cfg.haveEL3 = true ∧ s.inputs.el3AArch32 = true → perform (.esrWrite v) s = .next s ∧ s.esrEl1 = none) ∧
    (¬ (s.cfg.haveEL3 = true ∧ s.inputs.el3AArch32 = true) → s.cfg.res0Policy = .hardwired →
      perform (.esrWrite v) s = .refused .esrWriteNeedsStorage)

/-- 10_state.md R44: after reset every field bit of every copy is unknown: bits [16:9] and [7:0], less those that R45 makes
reserved bits. -/
def Obligations.ResetLeavesFieldsUnknown : Prop :=
  ∀ s : State, ∃ s' : State, perform .reset s = .next s' ∧
    ∀ (c : CellName) (k : Nat), k < 32 → ¬ ReservedBit s.cfg k → (s'.cell c).bit k = none

/-- 10_state.md R45 (D6) and 70_reset_and_hazards.md R160: after reset the bits reserved under both layouts are unknown under
`storage` and 0 under `hardwired`, in every copy; reset changes the cells only (log 17). -/
def Obligations.ResetOfReservedBits : Prop :=
  ∀ s : State, ∃ s' : State, perform .reset s = .next s' ∧
    (∀ (c : CellName) (k : Nat), k < 32 → ReservedBit s.cfg k →
      (s'.cell c).bit k = if s.cfg.res0Policy = .storage then none else some false) ∧
    s'.x = s.x ∧ s'.inputs = s.inputs ∧ s'.cfg = s.cfg ∧ s'.events = s.events ∧ s'.response = s.response

/-- 60_exceptions.md R138: a value stays until the next report, `MCR`, write through ESR_EL1 or reset. If a step changes a cell,
the event it took is one of these four, and reaches that cell. -/
def Obligations.CellChangesByItsWritersOnly : Prop :=
  ∀ (s s' : State) (c : CellName), step s = .next s' → s'.cell c ≠ s.cell c →
    ∃ rest : List Event,
      (∃ d : Descriptor, s.events = .report d :: rest ∧ d.cell = c) ∨
      (∃ v : Word, s.events = .esrWrite v :: rest ∧ c = .dfsr) ∨
      s.events = .reset :: rest ∨
      ∃ (w : Word) (i : Instr), s.events = .fetch w :: rest ∧ decode s.inputs.iset w = .ok i ∧ i.dir = .write ∧
        condPasses i.cond s.inputs = true ∧ checkAccess .write s.cfg s.inputs = .cell c

/-- A step changes a general register only by an `MRC` of it that completes, or by the environment's move that names it
(40_sysreg_access.md R94, R95; 10_state.md section 6). Two parts of this are the model's own choice, not the spec's: that a
reset leaves `x[t]` as it was (DESIGN CHOICE, log 17), and that an access which ends in an exception outcome, or a report,
does, what exception entry changes being left out (DESIGN CHOICE, log 3; D30). -/
def Obligations.RegisterChangesByReadOrMoveOnly : Prop :=
  ∀ (s s' : State) (t : Fin 15), step s = .next s' → s'.reg t ≠ s.reg t →
    ∃ rest : List Event,
      (∃ v : Word, s.events = .setReg t v :: rest ∧ s'.reg t = v) ∨
      ∃ (w : Word) (i : Instr) (c : CellName), s.events = .fetch w :: rest ∧ decode s.inputs.iset w = .ok i ∧
        i.dir = .read ∧ i.rt.toNat = t.val ∧ condPasses i.cond s.inputs = true ∧
        checkAccess .read s.cfg s.inputs = .cell c

/-- The inputs change by the environment's move (60_exceptions.md section 8), which sets them to exactly what it carries, and in
this model by nothing else. Two parts of that are the model's own choice, not the spec's: that a reset leaves the inputs as
they were (DESIGN CHOICE, log 17; 70_reset_and_hazards.md R161 makes the inputs after a reset premises, never facts), and
that an UNDEFINED or trapped access, or a report, leaves `PSTATE.EL` as it was, what exception entry changes being left out
(DESIGN CHOICE, log 3; D30). Both logs mark it unsafe to carry such an input over to a chip. -/
def Obligations.InputsChangeByMoveOnly : Prop :=
  ∀ s : State, s.cfg.haveAnyAArch32 = true →
    (∀ (i : Inputs) (rest : List Event), s.events = .setInputs i :: rest →
      step s = .next { s with inputs := i, events := rest }) ∧
    (∀ s' : State, step s = .next s' → (∀ (i : Inputs) (rest : List Event), s.events ≠ .setInputs i :: rest) →
      s'.inputs = s.inputs)

/-- No step changes a parameter of the chip (00_scope.md section 4: "fixed"). -/
def Obligations.StepKeepsParameters : Prop :=
  ∀ s s' : State, step s = .next s' → s'.cfg = s.cfg

/-- Where the oldest event is an instruction word that decodes, under the instruction-set state, to `i`, the step is `exec` of
`i` with that event taken off the list: the hardware has no pc to move (D2; log 1, log 2). -/
def Obligations.StepRunsDecodedInstruction : Prop :=
  ∀ (s : State) (w : Word) (rest : List Event) (i : Instr), s.events = .fetch w :: rest →
    decode s.inputs.iset w = .ok i → step s = exec i { s with events := rest }

/-- 00_scope.md R3 (D20): where AArch32 is supported at no Exception level the register is absent, and the model refuses every
step and every access. -/
def Obligations.AbsentRegisterIsRefused : Prop :=
  ∀ s : State, s.cfg.haveAnyAArch32 = false →
    step s = .refused .registerAbsent ∧ ∀ i : Instr, exec i s = .refused .registerAbsent

/-- After reset, with any parameters, every cell has contents it may have (`CellsInv`). -/
def Obligations.ResetMeetsCellInvariant : Prop :=
  CellsInv State.reset ∧ ∀ cfg : Config, CellsInv (State.resetWith cfg)

/-- The invariant of the cells is kept by every step from every state that meets it: contents stay canonical, and under
`hardwired` a bit reserved under both layouts stays one that reads 0 (10_state.md R20, R45). -/
def Obligations.StepKeepsCellInvariant : Prop :=
  ∀ s s' : State, CellsInv s → step s = .next s' → CellsInv s'

end Statements
end

