-- ==== Sys2Proof/Laws/Bits.lean ====
section
/-! SUPPORT. Bits that may be unknown: what each operation gives, bit by bit, and that each keeps the canonical form. -/

namespace Sys2Proof

@[simp] theorem KBits.bit_known {n : Nat} (v : BitVec n) (i : Nat) : (KBits.known v).bit i = some (v.getLsbD i) := by
  simp [KBits.bit, KBits.known]

theorem KBits.bit_unknown {n : Nat} (i : Nat) :
    (KBits.unknown n).bit i = if i < n then none else some false := by
  by_cases h : i < n <;> simp [KBits.bit, KBits.unknown, h]

theorem KBits.bit_append {n m : Nat} (a : KBits n) (b : KBits m) (i : Nat) :
    (a.append b).bit i = if i < m then b.bit i else a.bit (i - m) := by
  by_cases h : i < m <;> simp [KBits.bit, KBits.append, BitVec.getLsbD_append, h]

/-- A read gives each known bit as held and each unknown bit from the draw. -/
theorem KBits.getLsbD_read {n : Nat} (c : KBits n) (draw : BitVec n) (i : Nat) :
    (c.read draw).getLsbD i =
      match c.bit i with
      | some b => b
      | none => draw.getLsbD i := by
  have hi : c.unk.getLsbD i = true → i < n := fun h => BitVec.lt_of_getLsbD h
  have hv : c.val.getLsbD i = true → i < n := fun h => BitVec.lt_of_getLsbD h
  simp only [KBits.read, KBits.bit, BitVec.getLsbD_or, BitVec.getLsbD_and, BitVec.getLsbD_not]
  cases hu : c.unk.getLsbD i <;> cases hc : c.val.getLsbD i <;> simp_all

@[simp] theorem KBits.read_known {n : Nat} (v draw : BitVec n) : (KBits.known v).read draw = v := by
  simp [KBits.read, KBits.known]

@[simp] theorem KBits.canonical_known {n : Nat} (v : BitVec n) : (KBits.known v).canonical = true := by
  simp [KBits.canonical, KBits.known]

@[simp] theorem KBits.canonical_flag (b : Bool) : (KBits.flag b).canonical = true := KBits.canonical_known _

@[simp] theorem KBits.canonical_unknown (n : Nat) : (KBits.unknown n).canonical = true := by
  simp [KBits.canonical, KBits.unknown]

/-- The canonical form, bit by bit. -/
theorem KBits.canonical_iff {n : Nat} (c : KBits n) :
    c.canonical = true ↔ ∀ i, i < n → c.unk.getLsbD i = true → c.val.getLsbD i = false := by
  simp only [KBits.canonical, beq_iff_eq, BitVec.eq_of_getLsbD_eq_iff, BitVec.getLsbD_and, BitVec.getLsbD_zero,
    Bool.and_eq_false_iff]
  constructor
  · intro h i hi hu
    rcases h i hi with h | h
    · exact h
    · exact absurd hu (by simp [h])
  · intro h i hi
    cases hu : c.unk.getLsbD i
    · exact .inr rfl
    · exact .inl (h i hi hu)

theorem KBits.canonical_append {n m : Nat} (a : KBits n) (b : KBits m) (ha : a.canonical = true)
    (hb : b.canonical = true) : (a.append b).canonical = true := by
  rw [KBits.canonical_iff] at *
  intro i hi hu
  simp only [KBits.append, BitVec.getLsbD_append] at hu ⊢
  split at hu
  · next h => rw [if_pos h]; exact hb i h hu
  · next h => rw [if_neg h]; exact ha (i - m) (by omega) hu

/-- Which bits `Res0BothMask` has (10_state.md R20; 40_sysreg_access.md R95). -/
theorem getLsbD_res0BothMask (cfg : Config) (k : Nat) (hk : k < 32) :
    (res0BothMask cfg).getLsbD k =
      (decide (17 ≤ k) || decide (k = 8) || (!cfg.haveRas && (decide (k = 14) || decide (k = 15))) ||
        (!cfg.haveExtClass && decide (k = 12))) := by
  have table : ∀ ras ext : Bool, ∀ k : Fin 32,
      ((0xFFFE0100#32 ||| (if ras then 0#32 else 0x0000C000#32) |||
        (if ext then 0#32 else 0x00001000#32)).getLsbD k) =
      (decide (17 ≤ k.val) || decide (k.val = 8) || (!ras && (decide (k.val = 14) || decide (k.val = 15))) ||
        (!ext && decide (k.val = 12))) := by decide
  exact table cfg.haveRas cfg.haveExtClass ⟨k, hk⟩

/-- `Stored(v)`, bit by bit (40_sysreg_access.md R95). -/
theorem getLsbD_stored (cfg : Config) (v : Word) (k : Nat) (hk : k < 32) :
    (stored cfg v).getLsbD k =
      (v.getLsbD k && !(decide (cfg.res0Policy = .hardwired) && (res0BothMask cfg).getLsbD k)) := by
  unfold stored
  cases hp : cfg.res0Policy <;> simp [hk]

/-- A cell after reset, bit by bit (10_state.md R44, R45). -/
theorem bit_resetCell (cfg : Config) (k : Nat) (hk : k < 32) :
    (resetCell cfg).bit k =
      if cfg.res0Policy = .hardwired ∧ (res0BothMask cfg).getLsbD k = true then some false else none := by
  unfold resetCell
  cases cfg.res0Policy
  · cases hm : (res0BothMask cfg).getLsbD k <;>
      simp [KBits.bit, -BitVec.getLsbD_eq_getElem, hm, hk]
  · simp [KBits.bit_unknown, hk]

theorem canonical_resetCell (cfg : Config) : (resetCell cfg).canonical = true := by
  unfold resetCell
  cases cfg.res0Policy <;> simp [KBits.canonical, KBits.unknown]

end Sys2Proof
end

