-- ==== Sys2Proof/Laws/State.lean ====
section
/-! SUPPORT. One lemma per field per update of the state, so that no proof unfolds a record update. -/

namespace Sys2Proof.Machine

@[simp] theorem State.setReg_cfg (s : State) (t : Fin 15) (v : Word) : (s.setReg t v).cfg = s.cfg := rfl
@[simp] theorem State.setReg_dfsr (s : State) (t : Fin 15) (v : Word) : (s.setReg t v).dfsr = s.dfsr := rfl
@[simp] theorem State.setReg_dfsrS (s : State) (t : Fin 15) (v : Word) : (s.setReg t v).dfsrS = s.dfsrS := rfl
@[simp] theorem State.setReg_dfsrNS (s : State) (t : Fin 15) (v : Word) : (s.setReg t v).dfsrNS = s.dfsrNS := rfl
@[simp] theorem State.setReg_x (s : State) (t : Fin 15) (v : Word) : (s.setReg t v).x = s.x.set t v := rfl
@[simp] theorem State.setReg_inputs (s : State) (t : Fin 15) (v : Word) : (s.setReg t v).inputs = s.inputs := rfl
@[simp] theorem State.setReg_response (s : State) (t : Fin 15) (v : Word) : (s.setReg t v).response = s.response := rfl
@[simp] theorem State.setReg_events (s : State) (t : Fin 15) (v : Word) : (s.setReg t v).events = s.events := rfl
@[simp] theorem State.setReg_draws (s : State) (t : Fin 15) (v : Word) : (s.setReg t v).draws = s.draws := rfl

@[simp] theorem State.setInputs_cfg (s : State) (i : Inputs) : (s.setInputs i).cfg = s.cfg := rfl
@[simp] theorem State.setInputs_dfsr (s : State) (i : Inputs) : (s.setInputs i).dfsr = s.dfsr := rfl
@[simp] theorem State.setInputs_dfsrS (s : State) (i : Inputs) : (s.setInputs i).dfsrS = s.dfsrS := rfl
@[simp] theorem State.setInputs_dfsrNS (s : State) (i : Inputs) : (s.setInputs i).dfsrNS = s.dfsrNS := rfl
@[simp] theorem State.setInputs_x (s : State) (i : Inputs) : (s.setInputs i).x = s.x := rfl
@[simp] theorem State.setInputs_inputs (s : State) (i : Inputs) : (s.setInputs i).inputs = i := rfl
@[simp] theorem State.setInputs_response (s : State) (i : Inputs) : (s.setInputs i).response = s.response := rfl
@[simp] theorem State.setInputs_events (s : State) (i : Inputs) : (s.setInputs i).events = s.events := rfl
@[simp] theorem State.setInputs_draws (s : State) (i : Inputs) : (s.setInputs i).draws = s.draws := rfl

@[simp] theorem State.setEvents_cfg (s : State) (es : List Event) : (s.setEvents es).cfg = s.cfg := rfl
@[simp] theorem State.setEvents_dfsr (s : State) (es : List Event) : (s.setEvents es).dfsr = s.dfsr := rfl
@[simp] theorem State.setEvents_dfsrS (s : State) (es : List Event) : (s.setEvents es).dfsrS = s.dfsrS := rfl
@[simp] theorem State.setEvents_dfsrNS (s : State) (es : List Event) : (s.setEvents es).dfsrNS = s.dfsrNS := rfl
@[simp] theorem State.setEvents_x (s : State) (es : List Event) : (s.setEvents es).x = s.x := rfl
@[simp] theorem State.setEvents_inputs (s : State) (es : List Event) : (s.setEvents es).inputs = s.inputs := rfl
@[simp] theorem State.setEvents_response (s : State) (es : List Event) : (s.setEvents es).response = s.response := rfl
@[simp] theorem State.setEvents_events (s : State) (es : List Event) : (s.setEvents es).events = es := rfl
@[simp] theorem State.setEvents_draws (s : State) (es : List Event) : (s.setEvents es).draws = s.draws := rfl

@[simp] theorem State.drawn_cfg (s : State) : (s.drawn).cfg = s.cfg := rfl
@[simp] theorem State.drawn_dfsr (s : State) : (s.drawn).dfsr = s.dfsr := rfl
@[simp] theorem State.drawn_dfsrS (s : State) : (s.drawn).dfsrS = s.dfsrS := rfl
@[simp] theorem State.drawn_dfsrNS (s : State) : (s.drawn).dfsrNS = s.dfsrNS := rfl
@[simp] theorem State.drawn_x (s : State) : (s.drawn).x = s.x := rfl
@[simp] theorem State.drawn_inputs (s : State) : (s.drawn).inputs = s.inputs := rfl
@[simp] theorem State.drawn_response (s : State) : (s.drawn).response = s.response := rfl
@[simp] theorem State.drawn_events (s : State) : (s.drawn).events = s.events := rfl
@[simp] theorem State.drawn_draws (s : State) : (s.drawn).draws = s.draws + 1 := rfl

@[simp] theorem State.respond_cfg (s : State) (r : Response) : (s.respond r).cfg = s.cfg := rfl
@[simp] theorem State.respond_dfsr (s : State) (r : Response) : (s.respond r).dfsr = s.dfsr := rfl
@[simp] theorem State.respond_dfsrS (s : State) (r : Response) : (s.respond r).dfsrS = s.dfsrS := rfl
@[simp] theorem State.respond_dfsrNS (s : State) (r : Response) : (s.respond r).dfsrNS = s.dfsrNS := rfl
@[simp] theorem State.respond_x (s : State) (r : Response) : (s.respond r).x = s.x := rfl
@[simp] theorem State.respond_inputs (s : State) (r : Response) : (s.respond r).inputs = s.inputs := rfl
@[simp] theorem State.respond_response (s : State) (r : Response) : (s.respond r).response = some r := rfl
@[simp] theorem State.respond_events (s : State) (r : Response) : (s.respond r).events = s.events := rfl
@[simp] theorem State.respond_draws (s : State) (r : Response) : (s.respond r).draws = s.draws := rfl

@[simp] theorem State.setCell_cfg (s : State) (c : CellName) (v : KWord) : (s.setCell c v).cfg = s.cfg := by
  cases c <;> rfl
@[simp] theorem State.setCell_x (s : State) (c : CellName) (v : KWord) : (s.setCell c v).x = s.x := by
  cases c <;> rfl
@[simp] theorem State.setCell_inputs (s : State) (c : CellName) (v : KWord) : (s.setCell c v).inputs = s.inputs := by
  cases c <;> rfl
@[simp] theorem State.setCell_response (s : State) (c : CellName) (v : KWord) : (s.setCell c v).response = s.response := by
  cases c <;> rfl
@[simp] theorem State.setCell_events (s : State) (c : CellName) (v : KWord) : (s.setCell c v).events = s.events := by
  cases c <;> rfl
@[simp] theorem State.setCell_draws (s : State) (c : CellName) (v : KWord) : (s.setCell c v).draws = s.draws := by
  cases c <;> rfl

/-! The cells and the registers through their accessors. -/

@[simp] theorem State.cell_setCell_self (s : State) (c : CellName) (v : KWord) : (s.setCell c v).cell c = v := by
  cases c <;> rfl

theorem State.cell_setCell_of_ne (s : State) (c d : CellName) (v : KWord) (h : d ≠ c) :
    (s.setCell c v).cell d = s.cell d := by
  cases c <;> cases d <;> first | rfl | exact absurd rfl h

theorem State.cell_setCell (s : State) (c d : CellName) (v : KWord) :
    (s.setCell c v).cell d = if d = c then v else s.cell d := by
  split
  · next h => subst h; exact State.cell_setCell_self s d v
  · next h => exact State.cell_setCell_of_ne s c d v h

@[simp] theorem State.reg_setCell (s : State) (c : CellName) (v : KWord) (t : Fin 15) :
    (s.setCell c v).reg t = s.reg t := by
  cases c <;> rfl

@[simp] theorem State.reg_setReg_self (s : State) (t : Fin 15) (v : Word) : (s.setReg t v).reg t = v := by
  simp [State.reg]

theorem State.reg_setReg_of_ne (s : State) (t u : Fin 15) (v : Word) (h : u ≠ t) :
    (s.setReg t v).reg u = s.reg u := by
  have hn : (t : Nat) ≠ u := fun e => h (Fin.ext e.symm)
  simp [State.reg, hn]

theorem State.reg_setReg (s : State) (t u : Fin 15) (v : Word) :
    (s.setReg t v).reg u = if u = t then v else s.reg u := by
  split
  · next h => subst h; exact State.reg_setReg_self s u v
  · next h => exact State.reg_setReg_of_ne s t u v h

@[simp] theorem State.cell_setReg (s : State) (t : Fin 15) (v : Word) (c : CellName) : (s.setReg t v).cell c = s.cell c := by
  cases c <;> rfl
@[simp] theorem State.cell_setInputs (s : State) (i : Inputs) (c : CellName) : (s.setInputs i).cell c = s.cell c := by
  cases c <;> rfl
@[simp] theorem State.reg_setInputs (s : State) (i : Inputs) (u : Fin 15) : (s.setInputs i).reg u = s.reg u := rfl
@[simp] theorem State.cell_setEvents (s : State) (es : List Event) (c : CellName) : (s.setEvents es).cell c = s.cell c := by
  cases c <;> rfl
@[simp] theorem State.reg_setEvents (s : State) (es : List Event) (u : Fin 15) : (s.setEvents es).reg u = s.reg u := rfl
@[simp] theorem State.cell_drawn (s : State) (c : CellName) : (s.drawn).cell c = s.cell c := by
  cases c <;> rfl
@[simp] theorem State.reg_drawn (s : State) (u : Fin 15) : (s.drawn).reg u = s.reg u := rfl
@[simp] theorem State.cell_respond (s : State) (r : Response) (c : CellName) : (s.respond r).cell c = s.cell c := by
  cases c <;> rfl
@[simp] theorem State.reg_respond (s : State) (r : Response) (u : Fin 15) : (s.respond r).reg u = s.reg u := rfl

/-- A state is its cells, its registers and the rest. -/
theorem State.setCell_cell (s : State) (c : CellName) : s.setCell c (s.cell c) = s := by
  cases c <;> rfl

end Sys2Proof.Machine
end

