-- ==== Sys2Proof/Laws/Access.lean ====
section
/-! SUPPORT. What an access can do, said once: its operands, its check, its transfer, its three outcomes. -/

namespace Sys2Proof.Machine

/-- The four arms of `exec` as the one shared operation. -/
theorem exec_eq_access (i : Instr) (s : State) : exec i s = access i.iset i.dir i.cond i.rt s := by
  cases i <;> rfl

theorem regOf_of_admitted (set : ISet) (rt : BitVec 4) (h : rtAdmitted set rt = true) :
    ∃ t : Fin 15, regOf set rt = some t ∧ t.val = rt.toNat := by
  have hne : rt ≠ 15#4 := by
    rintro rfl
    cases set <;> simp [rtAdmitted] at h
  have hlt : rt.toNat < 15 := by
    have := rt.isLt
    have : rt.toNat ≠ 15 := fun e => hne (BitVec.eq_of_toNat_eq e)
    omega
  exact ⟨⟨rt.toNat, hlt⟩, by simp [regOf, h, hlt], rfl⟩

theorem regOf_some (set : ISet) (rt : BitVec 4) (t : Fin 15) (h : regOf set rt = some t) :
    rtAdmitted set rt = true ∧ t.val = rt.toNat := by
  unfold regOf at h
  split at h
  · cases h
  · next ha =>
    split at h
    · cases h; exact ⟨by simpa using ha, rfl⟩
    · cases h

theorem Instr.wf_iff (i : Instr) : i.wf = true ↔ condFieldOk i.cond = true ∧ rtAdmitted i.iset i.rt = true := by
  cases i <;> simp [Instr.wf, Instr.cond, Instr.iset, Instr.rt, condFieldOk]

/-- An access to a present register by an instruction answers a next state. -/
theorem exec_of_wf (i : Instr) (s : State) (t : Fin 15) (hp : s.cfg.haveAnyAArch32 = true) (hw : i.wf = true)
    (ht : t.val = i.rt.toNat) :
    exec i s = .next (if condPasses i.cond s.inputs then performAccess i.dir t s else skipAccess i.dir s) := by
  obtain ⟨hc, ha⟩ := (Instr.wf_iff i).1 hw
  obtain ⟨u, hu, hv⟩ := regOf_of_admitted _ _ ha
  have : u = t := Fin.ext (hv.trans ht.symm)
  subst this
  rw [exec_eq_access]
  simp [access, hp, hc, hu]

theorem exec_absent (i : Instr) (s : State) (h : s.cfg.haveAnyAArch32 = false) : exec i s = .refused .registerAbsent := by
  rw [exec_eq_access]
  simp [access, h]

/-- Whatever an access that answers a next state did, it was one of the two: perform, or skip. -/
theorem exec_next_cases (i : Instr) (s s' : State) (h : exec i s = .next s') :
    i.wf = true ∧ s.cfg.haveAnyAArch32 = true ∧
      ((condPasses i.cond s.inputs = true ∧ ∃ t : Fin 15, t.val = i.rt.toNat ∧ s' = performAccess i.dir t s) ∨
        (condPasses i.cond s.inputs = false ∧ s' = skipAccess i.dir s)) := by
  rw [exec_eq_access] at h
  unfold access at h
  split at h
  · cases h
  · next hp =>
    split at h
    · cases h
    · next hc =>
      split at h
      · cases h
      · next t ht =>
        obtain ⟨ha, hv⟩ := regOf_some _ _ _ ht
        refine ⟨(Instr.wf_iff i).2 ⟨by simpa using hc, ha⟩, by simpa using hp, ?_⟩
        cases hcp : condPasses i.cond s.inputs
        · right; simp [hcp] at h; exact ⟨rfl, h.symm⟩
        · left; simp [hcp] at h; exact ⟨rfl, t, hv, h.symm⟩

/-- An access whose condition passed: an exception and nothing else, or the transfer with the checked cell. -/
theorem performAccess_cases (dir : Dir) (t : Fin 15) (s : State) :
    (∃ r : Response, (checkAccess dir s.cfg s.inputs).exception = some r ∧ performAccess dir t s = s.respond r ∧
      r ≠ .completed) ∨
    ∃ c : CellName, checkAccess dir s.cfg s.inputs = .cell c ∧ performAccess dir t s = transfer dir c t s := by
  unfold performAccess
  cases h : checkAccess dir s.cfg s.inputs with
  | undefined => exact .inl ⟨_, rfl, rfl, by simp⟩
  | trap a => exact .inl ⟨_, rfl, rfl, by simp⟩
  | cell c => exact .inr ⟨c, rfl, rfl⟩

theorem performAccess_cell (dir : Dir) (t : Fin 15) (s : State) (c : CellName)
    (h : checkAccess dir s.cfg s.inputs = .cell c) : performAccess dir t s = transfer dir c t s := by
  simp [performAccess, h]

/-- An access whose condition failed moves nothing (30_encoding.md R80). -/
theorem skipAccess_frame (dir : Dir) (s : State) :
    (∀ c, (skipAccess dir s).cell c = s.cell c) ∧ (∀ u, (skipAccess dir s).reg u = s.reg u) ∧
      (skipAccess dir s).cfg = s.cfg ∧ (skipAccess dir s).inputs = s.inputs ∧ (skipAccess dir s).events = s.events := by
  unfold skipAccess
  split <;> simp

/-- A read leaves every cell and every other register as it was (40_sysreg_access.md R94). -/
theorem readInto_frame (c : CellName) (t : Fin 15) (s : State) :
    (readInto c t s).reg t = (s.cell c).read (Config.draw s.draws) ∧ (∀ u, u ≠ t → (readInto c t s).reg u = s.reg u) ∧
      (∀ d, (readInto c t s).cell d = s.cell d) ∧ (readInto c t s).cfg = s.cfg ∧ (readInto c t s).inputs = s.inputs ∧
      (readInto c t s).events = s.events := by
  refine ⟨by simp [readInto], ?_, by simp [readInto], rfl, rfl, rfl⟩
  intro u hu
  simp [readInto, State.reg_setReg_of_ne _ _ _ _ hu]

/-- A write leaves every other cell and every register as it was (40_sysreg_access.md R95). -/
theorem writeFrom_frame (c : CellName) (t : Fin 15) (s : State) :
    (writeFrom c t s).cell c = KBits.known (stored s.cfg (s.reg t)) ∧
      (∀ d, d ≠ c → (writeFrom c t s).cell d = s.cell d) ∧ (∀ u, (writeFrom c t s).reg u = s.reg u) ∧
      (writeFrom c t s).cfg = s.cfg ∧ (writeFrom c t s).inputs = s.inputs ∧ (writeFrom c t s).events = s.events ∧
      (writeFrom c t s).draws = s.draws := by
  refine ⟨by simp [writeFrom], ?_, by simp [writeFrom], by simp [writeFrom], by simp [writeFrom],
    by simp [writeFrom], by simp [writeFrom]⟩
  intro d hd
  simp [writeFrom, State.cell_setCell_of_ne _ _ _ _ hd]

/-- No access changes the parameters, the inputs or the events. -/
theorem exec_next_keeps (i : Instr) (s s' : State) (h : exec i s = .next s') :
    s'.cfg = s.cfg ∧ s'.inputs = s.inputs ∧ s'.events = s.events := by
  obtain ⟨-, -, ⟨-, t, -, rfl⟩ | ⟨-, rfl⟩⟩ := exec_next_cases i s s' h
  · obtain ⟨r, -, h, -⟩ | ⟨c, -, h⟩ := performAccess_cases i.dir t s
    · simp [h]
    · rw [h]; cases i.dir
      · exact ⟨rfl, rfl, rfl⟩
      · obtain ⟨-, -, -, a, b, c, -⟩ := writeFrom_frame c t s; exact ⟨a, b, c⟩
  · obtain ⟨-, -, a⟩ := skipAccess_frame i.dir s; exact a

end Sys2Proof.Machine
end

