-- ==== Sys2Proof/Laws/Decode.lean ====
section
/-! SUPPORT. The fields of an access word (30_encoding.md R75), and what the decoder answers, said once. -/

namespace Sys2Proof

/-- An access word, bit by bit (30_encoding.md R75). -/
theorem getLsbD_accessWord (top : BitVec 4) (a : Access) (k : Nat) (hk : k < 32) :
    (accessWord top a).getLsbD k =
      if k < 4 then a.crm.getLsbD k
      else if k < 5 then true
      else if k < 8 then a.opc2.getLsbD (k - 5)
      else if k < 12 then a.coproc.getLsbD (k - 8)
      else if k < 16 then a.rt.getLsbD (k - 12)
      else if k < 20 then a.crn.getLsbD (k - 16)
      else if k < 21 then a.dir == .read
      else if k < 24 then a.opc1.getLsbD (k - 21)
      else if k < 28 then (0b1110#4).getLsbD (k - 24)
      else top.getLsbD (k - 28) := by
  refine (BitVec.getLsbD_append (y := a.crm)).trans ?_
  simp only [BitVec.getLsbD_append]
  interval_cases k <;> first | rfl | (cases a.dir <;> rfl)

/-- The parts of an access word outside the tuple: the top field and the fixed bits. -/
theorem extractLsb'_accessWord (top : BitVec 4) (a : Access) :
    (accessWord top a).extractLsb' 28 4 = top ∧ (accessWord top a).extractLsb' 24 4 = 0b1110#4 ∧
      (accessWord top a).getLsbD 4 = true := by
  refine ⟨?_, ?_, by rw [getLsbD_accessWord _ _ _ (by omega)]; rfl⟩ <;>
  · apply BitVec.eq_of_getLsbD_eq
    intro k hk
    rw [BitVec.getLsbD_extractLsb', getLsbD_accessWord _ _ _ (by omega)]
    interval_cases k <;> rfl

/-- The decoder's fields of an access word are the tuple it was made from. -/
theorem fields_accessWord (top : BitVec 4) (a : Access) : accessFields (accessWord top a) = a := by
  obtain ⟨dir, co, o1, cn, cm, o2, rt⟩ := a
  simp only [accessFields, Access.mk.injEq]
  refine ⟨?_, ?_, ?_, ?_, ?_, ?_, ?_⟩
  · rw [getLsbD_accessWord _ _ _ (by omega)]; cases dir <;> rfl
  all_goals
    apply BitVec.eq_of_getLsbD_eq
    intro k hk
    rw [BitVec.getLsbD_extractLsb', getLsbD_accessWord _ _ _ (by omega)]
    interval_cases k <;> rfl

/-- A word is the access word of its own fields when the fixed bits are those of `MRC` and `MCR`. -/
theorem accessWord_fields (w : Word) (h24 : w.extractLsb' 24 4 = 0b1110#4) (h4 : w.getLsbD 4 = true) :
    accessWord (w.extractLsb' 28 4) (accessFields w) = w := by
  apply BitVec.eq_of_getLsbD_eq
  intro k hk
  rw [getLsbD_accessWord _ _ _ hk]
  have fixed : ∀ j, j < 4 → w.getLsbD (24 + j) = (0b1110#4).getLsbD j := by
    intro j hj
    rw [← h24, BitVec.getLsbD_extractLsb']
    simp [hj]
  have f0 := fixed 0 (by omega)
  have f1 := fixed 1 (by omega)
  have f2 := fixed 2 (by omega)
  have f3 := fixed 3 (by omega)
  interval_cases k <;>
    first
    | (simp [accessFields]; done)
    | exact h4.symm
    | exact f0.symm
    | exact f1.symm
    | exact f2.symm
    | exact f3.symm
    | skip
  simp only [accessFields]
  cases hb : w.getLsbD 20 <;> rfl

/-- What it takes for the decoder to read an instruction, and which one it reads. -/
theorem decode_eq_ok_iff (set : ISet) (w : Word) (i : Instr) :
    decode set w = .ok i ↔
      (set = .a32 → w.extractLsb' 28 4 ≠ 15#4) ∧ (set = .t32 → w.extractLsb' 28 4 = 14#4) ∧
      w.extractLsb' 24 4 = 14#4 ∧ w.getLsbD 4 = true ∧ (accessFields w).isDfsr = true ∧
      rtAdmitted set (accessFields w).rt = true ∧
      i = Instr.ofParts set (accessFields w).dir (w.extractLsb' 28 4) (accessFields w).rt := by
  unfold decode decodeAccess
  by_cases h1 : set = .a32 ∧ w.extractLsb' 28 4 = 15#4
  · simp [h1]
  by_cases h2 : set = .t32 ∧ w.extractLsb' 28 4 ≠ 14#4
  · simp [h2]
  by_cases h3 : w.extractLsb' 24 4 ≠ 14#4 ∨ w.getLsbD 4 = false
  · simp only [h1, h2, h3, if_true, if_false]
    constructor
    · intro h; cases h
    · rintro ⟨-, -, a, b, -⟩
      rcases h3 with h3 | h3
      · exact absurd a h3
      · rw [h3] at b; cases b
  simp only [h1, h2, h3, if_false]
  have g1 : set = .a32 → w.extractLsb' 28 4 ≠ 15#4 := fun a b => h1 ⟨a, b⟩
  have g2 : set = .t32 → w.extractLsb' 28 4 = 14#4 := fun a => Classical.byContradiction fun b => h2 ⟨a, b⟩
  obtain ⟨h5, h6⟩ := not_or.1 h3
  have g5 : w.extractLsb' 24 4 = 14#4 := Classical.byContradiction h5
  have g6 : w.getLsbD 4 = true := by simpa using h6
  cases h7 : (accessFields w).isDfsr
  · simp
  cases h8 : rtAdmitted set (accessFields w).rt
  · simp
  simp only [Bool.true_eq_false, if_false, Except.ok.injEq]
  exact ⟨fun h => ⟨g1, g2, g5, g6, trivial, trivial, h.symm⟩, fun h => h.2.2.2.2.2.2.symm⟩

/-- The tuple of 30_encoding.md R72 is DFSR's, and an access of DFSR is that tuple. -/
theorem isDfsr_iff (a : Access) : a.isDfsr = true ↔ a = dfsrAccess a.dir a.rt := by
  obtain ⟨dir, co, o1, cn, cm, o2, rt⟩ := a
  simp [Access.isDfsr, dfsrAccess, and_assoc]

/-- The decoder on an access word. -/
theorem decode_accessWord (set : ISet) (top : BitVec 4) (a : Access) (h1 : set = .a32 → top ≠ 15#4)
    (h2 : set = .t32 → top = 14#4) :
    decode set (accessWord top a) =
      if a.isDfsr = false then .error (.otherRegister a)
      else if rtAdmitted set a.rt = false then .error (.rtNotAdmitted a.rt)
      else .ok (Instr.ofParts set a.dir top a.rt) := by
  obtain ⟨e28, e24, e4⟩ := extractLsb'_accessWord top a
  have g1 : ¬ (set = .a32 ∧ top = 15#4) := fun h => h1 h.1 h.2
  have g2 : ¬ (set = .t32 ∧ top ≠ 14#4) := fun h => h.2 (h2 h.1)
  simp only [decode, decodeAccess, e28, e24, e4, g1, g2, fields_accessWord, if_false, ne_eq, not_true_eq_false, false_or,
    Bool.true_eq_false]

/-- The encoder in parts. -/
theorem encode_eq_accessWord (i : Instr) : encode i = accessWord (i.cond.getD 14#4) (dfsrAccess i.dir i.rt) := by
  cases i <;> rfl

theorem ofParts_self (i : Instr) : Instr.ofParts i.iset i.dir (i.cond.getD 14#4) i.rt = i := by
  cases i <;> rfl

end Sys2Proof
end

