-- ==== Sys2Proof/Laws/PerInstr.lean ====
section
/-! SUPPORT. The family `TableRow`: each instruction's word lies in its row of spec/opcode_table.json. -/

namespace Sys2Proof.Laws.TableRow

/-- The row's mask, by instruction set (30_encoding.md R77). -/
def mask : ISet → Word
  | .a32 => 0x0FFF0FFF#32
  | .t32 => 0xFFFF0FFF#32

/-- The row's match value (30_encoding.md R77). -/
def matchValue : ISet → Dir → Word
  | .a32, .read => 0x0E150F10#32
  | .a32, .write => 0x0E050F10#32
  | .t32, .read => 0xEE150F10#32
  | .t32, .write => 0xEE050F10#32

/-- The word of `i` matches its row. -/
def Statement (i : Instr) : Prop := encode i &&& mask i.iset = matchValue i.iset i.dir

/-- The masked access word does not depend on `Rt`, nor in A32 on the condition. -/
theorem masked_accessWord (set : ISet) (top rt : BitVec 4) (dir : Dir) (h : set = .t32 → top = 14#4) :
    accessWord top (dfsrAccess dir rt) &&& mask set = matchValue set dir := by
  apply BitVec.eq_of_getLsbD_eq
  intro k hk
  rw [BitVec.getLsbD_and, getLsbD_accessWord _ _ _ hk]
  cases set
  · cases dir <;> interval_cases k <;> simp [dfsrAccess, mask, matchValue]
  · rw [h rfl]
    cases dir <;> interval_cases k <;> simp [dfsrAccess, mask, matchValue]

theorem mrcA32 (cond rt : BitVec 4) : Statement (.mrcA32 cond rt) :=
  masked_accessWord .a32 cond rt .read (by simp)

theorem mcrA32 (cond rt : BitVec 4) : Statement (.mcrA32 cond rt) :=
  masked_accessWord .a32 cond rt .write (by simp)

theorem mrcT32 (rt : BitVec 4) : Statement (.mrcT32 rt) :=
  masked_accessWord .t32 14#4 rt .read (fun _ => rfl)

theorem mcrT32 (rt : BitVec 4) : Statement (.mcrT32 rt) :=
  masked_accessWord .t32 14#4 rt .write (fun _ => rfl)

end Sys2Proof.Laws.TableRow
end

