-- ==== Sys2Proof/Laws/Report.lean ====
section
/-! SUPPORT. What a report can do, said once, and the bits of a report value by position. -/

namespace Sys2Proof.Machine

/-- A kind with a code under the layout has a report value. -/
theorem reportValue_of_hasCode (cfg : Config) (d : Descriptor) (h : d.kind.hasCode d.eae = true) :
    ∃ v, reportValue cfg d = some v := by
  unfold FaultKind.hasCode at h
  unfold reportValue
  cases he : d.eae <;> rw [he] at h
  · obtain ⟨c, hc⟩ := Option.isSome_iff_exists.1 (show d.kind.fs.isSome = true from h)
    exact ⟨_, by rw [hc]; rfl⟩
  · obtain ⟨c, hc⟩ := Option.isSome_iff_exists.1 (show d.kind.status.isSome = true from h)
    exact ⟨_, by rw [hc]; rfl⟩

theorem hasCode_of_admissible (cfg : Config) (inputs : Inputs) (d : Descriptor) (h : inadmissible cfg inputs d = none) :
    d.kind.hasCode d.eae = true := by
  unfold inadmissible at h
  split at h
  · cases h
  · split at h
    · cases h
    · next hc => simpa using hc

/-- A report answers the state with the named cell replaced, or is refused as inadmissible. -/
theorem report_cases (d : Descriptor) (s : State) :
    (inadmissible s.cfg s.inputs d = none ∧ ∃ v, reportValue s.cfg d = some v ∧ report d s = .next (s.setCell d.cell v)) ∨
      ∃ why, inadmissible s.cfg s.inputs d = some why ∧ report d s = .refused (.inadmissible why) := by
  unfold report
  cases h : inadmissible s.cfg s.inputs d with
  | some why => exact .inr ⟨why, rfl, rfl⟩
  | none =>
    obtain ⟨v, hv⟩ := reportValue_of_hasCode s.cfg d (hasCode_of_admissible _ _ _ h)
    exact .inl ⟨rfl, v, hv, by rw [hv]⟩

/-- What a report that answers a next state did. -/
theorem report_next (d : Descriptor) (s s' : State) (h : report d s = .next s') :
    inadmissible s.cfg s.inputs d = none ∧ ∃ v, reportValue s.cfg d = some v ∧ s' = s.setCell d.cell v := by
  obtain ⟨ha, v, hv, hr⟩ | ⟨why, -, hr⟩ := report_cases d s
  · rw [hr] at h; cases h; exact ⟨ha, v, hv, rfl⟩
  · rw [hr] at h; cases h

/-- The high bits of a report value are the same in both layouts; the low ones are the layout's. -/
theorem reportValue_some (cfg : Config) (d : Descriptor) (v : KWord) (h : reportValue cfg d = some v) :
    (d.eae = false ∧ ∃ code, d.kind.fs = some code ∧ v = (reportHigh cfg d).append (reportLowShort d code)) ∨
      (d.eae = true ∧ ∃ code, d.kind.status = some code ∧ v = (reportHigh cfg d).append (reportLowLong code)) := by
  unfold reportValue at h
  cases he : d.eae
  · rw [he] at h
    obtain ⟨c, hc, rfl⟩ := Option.map_eq_some_iff.1 h
    exact .inl ⟨rfl, c, hc, rfl⟩
  · rw [he] at h
    obtain ⟨c, hc, rfl⟩ := Option.map_eq_some_iff.1 h
    exact .inr ⟨rfl, c, hc, rfl⟩

/-- Bits [31:11] of a report value come from `reportHigh`. -/
theorem bit_reportValue_high (cfg : Config) (d : Descriptor) (v : KWord) (h : reportValue cfg d = some v) (k : Nat)
    (hk : 11 ≤ k) : v.bit k = (reportHigh cfg d).bit (k - 11) := by
  have hn : ¬ k < 11 := by omega
  obtain ⟨-, code, -, rfl⟩ | ⟨-, code, -, rfl⟩ := reportValue_some cfg d v h <;>
    exact (KBits.bit_append _ _ k).trans (if_neg hn)

/-- `reportHigh`, field by field: WnR, ExT, CM, AET, FnV and the reserved bits (60_exceptions.md R121). -/
theorem bit_reportHigh (cfg : Config) (d : Descriptor) :
    (reportHigh cfg d).bit 0 = (wnrField d).bit 0 ∧ (reportHigh cfg d).bit 1 = (extField cfg d).bit 0 ∧
      (reportHigh cfg d).bit 2 = (cmField d).bit 0 ∧ (reportHigh cfg d).bit 3 = (aetField cfg d).bit 0 ∧
      (reportHigh cfg d).bit 4 = (aetField cfg d).bit 1 ∧ (reportHigh cfg d).bit 5 = (fnvField d).bit 0 ∧
      ∀ k, 6 ≤ k → (reportHigh cfg d).bit k = some false := by
  refine ⟨by simp [reportHigh, KBits.bit_append], by simp [reportHigh, KBits.bit_append],
    by simp [reportHigh, KBits.bit_append], by simp [reportHigh, KBits.bit_append],
    by simp [reportHigh, KBits.bit_append], by simp [reportHigh, KBits.bit_append], ?_⟩
  intro k hk
  have h6 : ¬ k < 6 := by omega
  simp only [reportHigh, KBits.bit_append, KBits.bit_known]
  simp [h6]

/-- `reportLowShort`, field by field (60_exceptions.md R128 to R130). -/
theorem bit_reportLowShort (d : Descriptor) (code : BitVec 5) :
    (∀ k, k < 4 → (reportLowShort d code).bit k = some (code.getLsbD k)) ∧
      (∀ k, k < 4 → (reportLowShort d code).bit (4 + k) = (domainField d).bit k) ∧
      (reportLowShort d code).bit 8 = some false ∧ (reportLowShort d code).bit 9 = some false ∧
      (reportLowShort d code).bit 10 = some (code.getLsbD 4) := by
  refine ⟨?_, ?_, by simp [reportLowShort, KBits.bit_append], by simp [reportLowShort, KBits.bit_append],
    by simp [reportLowShort, KBits.bit_append]⟩
  · intro k hk
    have : k < 8 ∧ k < 9 ∧ k < 10 ∧ k < 5 := by omega
    simp [reportLowShort, KBits.bit_append, this, hk]
  · intro k hk
    have : 4 + k < 8 ∧ 4 + k < 9 ∧ 4 + k < 10 ∧ ¬ 4 + k < 4 := by omega
    simp [reportLowShort, KBits.bit_append, this]

/-- `reportLowLong`, field by field (60_exceptions.md R128 to R130). -/
theorem bit_reportLowLong (code : BitVec 6) :
    (∀ k, k < 6 → (reportLowLong code).bit k = some (code.getLsbD k)) ∧ (reportLowLong code).bit 6 = some false ∧
      (reportLowLong code).bit 7 = some false ∧ (reportLowLong code).bit 8 = some false ∧
      (reportLowLong code).bit 9 = some true ∧ (reportLowLong code).bit 10 = some false := by
  refine ⟨?_, by simp [reportLowLong, KBits.bit_append], by simp [reportLowLong, KBits.bit_append],
    by simp [reportLowLong, KBits.bit_append], by simp [reportLowLong, KBits.bit_append],
    by simp [reportLowLong, KBits.bit_append]⟩
  intro k hk
  have : k < 9 ∧ k < 10 := by omega
  simp [reportLowLong, KBits.bit_append, this, hk]

/-! Each field, and so the whole value, is canonical. -/

theorem canonical_fnvField (d : Descriptor) : (fnvField d).canonical = true := by
  unfold fnvField; split <;> [skip; split] <;> simp

theorem canonical_aetField (cfg : Config) (d : Descriptor) : (aetField cfg d).canonical = true := by
  unfold aetField; split <;> simp

theorem canonical_cmField (d : Descriptor) : (cmField d).canonical = true := by
  unfold cmField; repeat' split
  all_goals simp

theorem canonical_extField (cfg : Config) (d : Descriptor) : (extField cfg d).canonical = true := by
  unfold extField; repeat' split
  all_goals simp

theorem canonical_wnrField (d : Descriptor) : (wnrField d).canonical = true := by
  unfold wnrField; repeat' split
  all_goals simp

theorem canonical_domainField (d : Descriptor) : (domainField d).canonical = true := by
  unfold domainField; split <;> simp

theorem canonical_reportHigh (cfg : Config) (d : Descriptor) : (reportHigh cfg d).canonical = true := by
  unfold reportHigh
  exact KBits.canonical_append _ _ (by simp) <| KBits.canonical_append _ _ (canonical_fnvField d) <|
    KBits.canonical_append _ _ (canonical_aetField cfg d) <| KBits.canonical_append _ _ (canonical_cmField d) <|
    KBits.canonical_append _ _ (canonical_extField cfg d) (canonical_wnrField d)

theorem canonical_reportValue (cfg : Config) (d : Descriptor) (v : KWord) (h : reportValue cfg d = some v) :
    v.canonical = true := by
  obtain ⟨-, code, -, rfl⟩ | ⟨-, code, -, rfl⟩ := reportValue_some cfg d v h
  · refine KBits.canonical_append _ _ (canonical_reportHigh cfg d) ?_
    unfold reportLowShort
    exact KBits.canonical_append _ _ (by simp) <| KBits.canonical_append _ _ (by simp) <|
      KBits.canonical_append _ _ (by simp) <| KBits.canonical_append _ _ (canonical_domainField d) (by simp)
  · refine KBits.canonical_append _ _ (canonical_reportHigh cfg d) ?_
    unfold reportLowLong
    exact KBits.canonical_append _ _ (by simp) <| KBits.canonical_append _ _ (by simp) <|
      KBits.canonical_append _ _ (by simp) (by simp)

/-! The moves that write a cell. -/

/-- What a write through ESR_EL1 that answers a next state did. -/
theorem esrWrite_next (v : Word) (s s' : State) (h : esrWrite v s = .next s') :
    (banked s.cfg s.inputs = true ∧ s' = s) ∨
      (banked s.cfg s.inputs = false ∧ s.cfg.res0Policy = .storage ∧ s' = s.setCell .dfsr (KBits.known v)) := by
  unfold esrWrite at h
  cases hb : banked s.cfg s.inputs
  · rw [hb] at h
    cases hp : s.cfg.res0Policy
    · rw [hp] at h; cases h
    · rw [hp] at h; cases h; exact .inr ⟨rfl, rfl, rfl⟩
  · rw [hb] at h; cases h; exact .inl ⟨rfl, rfl⟩

theorem cell_resetMove (s : State) (c : CellName) : (resetMove s).cell c = resetCell s.cfg := by
  cases c <;> rfl

end Sys2Proof.Machine
end

