-- ==== Sys2Proof/Laws/Step.lean ====
section
/-! SUPPORT. What a step that answers a next state did, said once. -/

namespace Sys2Proof.Machine

/-- A step on a present register takes the oldest event. -/
theorem step_cons (s : State) (e : Event) (rest : List Event) (hp : s.cfg.haveAnyAArch32 = true)
    (he : s.events = e :: rest) : step s = perform e (s.setEvents rest) := by
  simp [step, hp, he]

/-- A step that answers a next state was idle, or performed the oldest event. -/
theorem step_next_cases (s s' : State) (h : step s = .next s') :
    s.cfg.haveAnyAArch32 = true ∧
      ((s.events = [] ∧ s' = s) ∨
        ∃ (e : Event) (rest : List Event), s.events = e :: rest ∧ perform e (s.setEvents rest) = .next s') := by
  unfold step at h
  split at h
  · cases h
  · next hp =>
    refine ⟨by simpa using hp, ?_⟩
    split at h
    · next he => cases h; exact .inl ⟨he, rfl⟩
    · next e rest he => exact .inr ⟨e, rest, he, h⟩

/-- What one event that answers a next state did. -/
theorem perform_next_cases (e : Event) (s s' : State) (h : perform e s = .next s') :
    (∃ (w : Word) (i : Instr), e = .fetch w ∧ decode s.inputs.iset w = .ok i ∧ exec i s = .next s') ∨
      (∃ (d : Descriptor) (v : KWord), e = .report d ∧ reportValue s.cfg d = some v ∧ s' = s.setCell d.cell v) ∨
      (∃ v : Word, e = .esrWrite v ∧ (s' = s ∨ (s.cfg.res0Policy = .storage ∧ s' = s.setCell .dfsr (KBits.known v)))) ∨
      (e = .reset ∧ s' = resetMove s) ∨ (∃ i : Inputs, e = .setInputs i ∧ s' = s.setInputs i) ∨
      ∃ (t : Fin 15) (v : Word), e = .setReg t v ∧ s' = s.setReg t v := by
  cases e with
  | fetch w =>
    left
    simp only [perform, fetch] at h
    split at h
    · next i hi => exact ⟨w, i, rfl, hi, h⟩
    · cases h
  | report d =>
    right; left
    obtain ⟨-, v, hv, hs⟩ := report_next d s s' h
    exact ⟨d, v, rfl, hv, hs⟩
  | esrWrite v =>
    right; right; left
    obtain ⟨-, hs⟩ | ⟨-, hp, hs⟩ := esrWrite_next v s s' h
    · exact ⟨v, rfl, .inl hs⟩
    · exact ⟨v, rfl, .inr ⟨hp, hs⟩⟩
  | reset => cases h; exact .inr (.inr (.inr (.inl ⟨rfl, rfl⟩)))
  | setInputs i => cases h; exact .inr (.inr (.inr (.inr (.inl ⟨i, rfl, rfl⟩))))
  | setReg t v => cases h; exact .inr (.inr (.inr (.inr (.inr ⟨t, v, rfl, rfl⟩))))

end Sys2Proof.Machine
end

