-- ==== Sys2Proof/Machine/Fields.lean ====
section
/-! DEFINITION. The two layouts as views of the same 32 bits (10_state.md R12, sections 3 and 4) and what the field values mean. -/

namespace Sys2Proof.Machine

/-- The fields at the same place in both layouts, bits [16:11] and [9] (10_state.md section 2). -/
structure CommonFields where
  fnv : Bool
  aet : BitVec 2
  cm : Bool
  ext : Bool
  wnr : Bool
  lpae : Bool
  deriving DecidableEq, Repr

/-- A value as one of the two layouts reads it. -/
inductive View where
  /-- "When TTBCR.EAE == 0": FS[4:0] and Domain (10_state.md section 3). -/
  | short (common : CommonFields) (fs : BitVec 5) (domain : BitVec 4)
  /-- "When TTBCR.EAE == 1": STATUS (10_state.md section 4). -/
  | long (common : CommonFields) (status : BitVec 6)
  deriving DecidableEq, Repr

def commonFieldsOf (v : Word) : CommonFields :=
  { fnv := v.getLsbD 16, aet := v.extractLsb' 14 2, cm := v.getLsbD 13, ext := v.getLsbD 12, wnr := v.getLsbD 11,
    lpae := v.getLsbD 9 }

/-- "The current translation table format determines which format of the register is used." (10_state.md R12) -/
def viewOf (eae : Bool) (v : Word) : View :=
  if eae then .long (commonFieldsOf v) (statusOf v) else .short (commonFieldsOf v) (fsOf v) (v.extractLsb' 4 4)

/-- What FnV says of DFAR where it says anything (10_state.md R22, R33). DFAR itself is outside the hardware
(60_exceptions.md R131). -/
inductive FarStatus where
  /-- 0b0: "DFAR is valid." -/
  | valid
  /-- 0b1: "DFAR is not valid, and holds an UNKNOWN value." -/
  | notValid
  deriving DecidableEq, Repr

/-- What FnV says of DFAR in a value that decodes to `kind`: "only valid for a synchronous External abort other than a synchronous
External abort on a translation table walk" (10_state.md R22, R33). For every other kind, and for a reserved code, it says
nothing: `none` claims neither that DFAR is valid nor that it is not (60_exceptions.md R131; 91_not_in_source.md N20;
log 23). -/
def farStatusOf (kind : Option FaultKind) (fnv : Bool) : Option FarStatus :=
  if kind = some .syncExternal then some (if fnv then .notValid else .valid) else none

/-- The AET labels (10_state.md R23, R34, in the broader Long-descriptor wording: 90_conflicts.md C3). -/
inductive ErrorState where
  /-- 0b00: uncontainable error (UC) or uncategorized. -/
  | uncontainable
  /-- 0b01: unrecoverable error (UEU). -/
  | unrecoverable
  /-- 0b10: restartable error (UEO) or Corrected error (CE). -/
  | restartable
  /-- 0b11: recoverable error (UER). -/
  | recoverable
  deriving DecidableEq, Repr

/-- What AET says in a value that decodes to `kind`: valid with RAS for the SError interrupt only (10_state.md R23, R34); elsewhere it
is RES0 and says nothing (log 23). -/
def errorStateOf (cfg : Config) (kind : Option FaultKind) (aet : BitVec 2) : Option ErrorState :=
  if cfg.haveRas = false ∨ kind ≠ some .sError then none
  else if aet = 0b00#2 then some .uncontainable
  else if aet = 0b01#2 then some .unrecoverable
  else if aet = 0b10#2 then some .restartable
  else some .recoverable

end Sys2Proof.Machine
end

