-- ==== Sys2Proof/Tests/Slice0.lean ====
section
/-! SUPPORT. Small tests, expected results from 95_test_vectors.md or written out by hand from the rule named, and a witness for
each statement that has hypotheses. -/

namespace Sys2Proof.Tests

open Sys2Proof Sys2Proof.Machine Sys2Proof.Claims

/-! ## WellFormed: an ill-formed term for each check (30_encoding.md R75, R79) -/

theorem test_wf_cond_1111 : (Instr.mrcA32 15#4 0#4).wf = false ∧ (Instr.mcrA32 15#4 0#4).wf = false := by decide
theorem test_wf_rt_15_a32 : (Instr.mrcA32 14#4 15#4).wf = false ∧ (Instr.mcrA32 14#4 15#4).wf = false := by decide
theorem test_wf_rt_15_t32 : (Instr.mrcT32 15#4).wf = false ∧ (Instr.mcrT32 15#4).wf = false := by decide
theorem test_wf_rt_13_t32 : (Instr.mrcT32 13#4).wf = false ∧ (Instr.mcrT32 13#4).wf = false := by decide
theorem test_wf_rt_13_a32 : (Instr.mrcA32 14#4 13#4).wf = true ∧ (Instr.mcrA32 0#4 14#4).wf = true := by decide

/-! ## Decode: words written out bit by bit from 30_encoding.md R75 to R77, and the words of 95_test_vectors.md section 2.1 -/

/-- cond 0001, 1110, opc1 000, L 1, CRn 0101, Rt 0010, coproc 1111, opc2 000, 1, CRm 0000: `MRCNE p15, 0, R2, c5, c0, 0`. -/
theorem test_decode_mrcA32 :
    decode .a32 (0b0001_1110_000_1_0101_0010_1111_000_1_0000#32) = .ok (.mrcA32 0b0001#4 2#4) := by rfl
/-- cond 0000, L 0, Rt 0101: `MCREQ p15, 0, R5, c5, c0, 0`. -/
theorem test_decode_mcrA32 :
    decode .a32 (0b0000_1110_000_0_0101_0101_1111_000_1_0000#32) = .ok (.mcrA32 0b0000#4 5#4) := by rfl
/-- hw1 = 11101110 000 1 0101, hw2 = 1100 1111 000 1 0000: `MRC p15, 0, R12, c5, c0, 0`. -/
theorem test_decode_mrcT32 :
    decodeHalfwords (0b11101110_000_1_0101#16) (0b1100_1111_000_1_0000#16) = .ok (.mrcT32 12#4) := by rfl
/-- hw1 = 11101110 000 0 0101, hw2 = 1110 1111 000 1 0000: `MCR p15, 0, R14, c5, c0, 0`. -/
theorem test_decode_mcrT32 :
    decodeHalfwords (0b11101110_000_0_0101#16) (0b1110_1111_000_1_0000#16) = .ok (.mcrT32 14#4) := by rfl

/-- The negative words of 95_test_vectors.md section 2.1, each refused by name. -/
theorem test_decode_refused :
    decode .a32 0xEE15FF10#32 = .error (.rtNotAdmitted 15#4) ∧ decode .t32 0xEE15DF10#32 = .error (.rtNotAdmitted 13#4) ∧
      decode .a32 0xEE15DF10#32 = .ok (.mrcA32 14#4 13#4) ∧ decode .a32 0xEE150F00#32 = .error .notCoprocMove ∧
      decode .a32 0xFE150F10#32 = .error .notACondition ∧ decode .t32 0xFE150F10#32 = .error .notT32Move := by
  refine ⟨?_, ?_, ?_, ?_, ?_, ?_⟩ <;> rfl
theorem test_decode_otherRegister :
    decode .a32 0xEE150F30#32 = .error (.otherRegister { dfsrAccess .read 0#4 with opc2 := 1#3 }) ∧
      decode .a32 0xEE160F10#32 = .error (.otherRegister { dfsrAccess .read 0#4 with crn := 6#4 }) ∧
      decode .a32 0xEE150F11#32 = .error (.otherRegister { dfsrAccess .read 0#4 with crm := 1#4 }) ∧
      decode .a32 0xEE350F10#32 = .error (.otherRegister { dfsrAccess .read 0#4 with opc1 := 1#3 }) ∧
      decode .a32 0xEE150E10#32 = .error (.otherRegister { dfsrAccess .read 0#4 with coproc := 14#4 }) := by
  refine ⟨?_, ?_, ?_, ?_, ?_⟩ <;> rfl

/-- The column "with cond always, Rt = R0" of 30_encoding.md R77, and the canonical spelling of R73. -/
theorem test_encode :
    encode (.mrcA32 14#4 0#4) = 0xEE150F10#32 ∧ encode (.mcrA32 14#4 12#4) = 0xEE05CF10#32 ∧
      encode (.mrcT32 3#4) = 0xEE153F10#32 ∧ encode (.mcrT32 0#4) = 0xEE050F10#32 := by decide
theorem test_asmLine :
    ({ dir := .read, c := none, q := some .w, coproc := 15#4, opc1 := 0#3, rt := 3#4, crn := 5#4, crm := 0#4,
       opc2 := none } : AsmLine).wordA32 = 0xEE153F10#32 := by decide

/-- The first words of the four table rows, their operand fields zero, are read as the row's instruction. -/
theorem test_decodeTableWord :
    decodeTableWord 32 0x0E150F10 = some (.mrcA32 0#4 0#4) ∧ decodeTableWord 32 0x0E050F10 = some (.mcrA32 0#4 0#4) ∧
      decodeTableWord 32 0xEE150F10 = some (.mrcT32 0#4) ∧ decodeTableWord 32 0xEE050F10 = some (.mcrT32 0#4) ∧
      decodeTableWord 32 0xEE15DF10 = some (.mrcA32 14#4 13#4) ∧ decodeTableWord 32 0xEE15FF10 = none := by decide

/-! ## States -/

/-- The answer is a next state with the property `p`. -/
def nextHas (a : Answer) (p : State → Bool) : Bool :=
  match a with
  | .next s => p s
  | .fault _ => false
  | .refused _ => false

/-- The state after reset with other inputs. -/
def withIn (i : Inputs) : State := { State.reset with inputs := i }

/-- The banked machine: EL3 implemented and using AArch32 (and so EL2 too). -/
def bankedCfg : Config := { Config.default with haveEL3 := true }
def bankedIn (el : EL) (ns : Bool) : Inputs :=
  { Inputs.default with el := el, el2AArch32 := true, el3AArch32 := true, scrNS := ns }
def bankedState (el : EL) (ns : Bool) : State := { State.resetWith bankedCfg with inputs := bankedIn el ns }

def hardCfg : Config := { Config.default with res0Policy := .hardwired }
def noRas : Config := { Config.default with haveRas := false }
def noClass : Config := { Config.default with haveExtClass := false }

/-! ## The instructions, one step each (95_test_vectors.md Part 3) -/

/-- P1, first step: `x[1] = 0x0000020F`, `MCR p15, 0, R1` at EL1 leaves `DFSR = 0x0000020F`, all bits known. -/
theorem test_mcrA32_stores :
    nextHas (exec (.mcrA32 14#4 1#4) (State.reset.setReg 1 0x0000020F#32))
      (fun s => s.dfsr == KBits.known 0x0000020F#32 && s.reg 1 == 0x0000020F#32) = true := by decide
/-- P2, third step: at EL3 with `SCR.NS = 1`, `MCR R2` writes `DFSR_NS` and not `DFSR_S`. -/
theorem test_mcrT32_reaches_ns :
    nextHas (exec (.mcrT32 2#4) ((bankedState .el3 true).setReg 2 0x00000A0E#32))
      (fun s => s.dfsrNS == KBits.known 0x00000A0E#32 && s.dfsrS == KBits.unknown 32) = true := by decide
/-- P2, `MRC R4` at EL3 with `SCR.NS = 0` reads `DFSR_S`, whatever the draw. -/
theorem test_mrcA32_value :
    ∃ s', exec (.mrcA32 14#4 4#4) { bankedState .el3 false with dfsrS := KBits.known 0x00000805#32 } = .next s' ∧
      s'.reg 4 = 0x00000805#32 :=
  ⟨readInto .dfsrS 4 { bankedState .el3 false with dfsrS := KBits.known 0x00000805#32 }, rfl,
    ((readInto_frame ..).1).trans (KBits.read_known ..)⟩
/-- P3, last step: EL1, EL2 using AArch32, `HSTR.T5 = 1`: trapped, `x[0]` unchanged. -/
theorem test_mrcT32_trapped :
    nextHas (exec (.mrcT32 0#4) ((withIn { Inputs.default with el2Enabled := true, el2AArch32 := true, hstrT5 := true }).setReg
      0 0xAAAAAAAA#32)) (fun s => s.response == some (.trapEL2 false 0x03#8) && s.reg 0 == 0xAAAAAAAA#32) = true := by decide
/-- P3, second step: `MCR` at EL0 is UNDEFINED and `DFSR` unchanged. -/
theorem test_mcrA32_el0 :
    nextHas (exec (.mcrA32 14#4 1#4) { withIn { Inputs.default with el := .el0 } with dfsr := KBits.known 1#32 })
      (fun s => s.response == some .undefined && s.dfsr == KBits.known 1#32) = true := by decide
/-- P7: `MRCNE R2` with the condition failing moves nothing. -/
theorem test_mrcA32_condition_fails :
    nextHas (exec (.mrcA32 1#4 2#4) ({ withIn { Inputs.default with condPassed := false } with
      dfsr := KBits.known 0x221#32 }.setReg 2 0x12345678#32))
      (fun s => s.reg 2 == 0x12345678#32 && s.dfsr == KBits.known 0x221#32) = true := by decide

/-! ## The access check (95_test_vectors.md section 2.2) -/

theorem test_check_undefined_and_traps :
    checkAccess .write Config.default { Inputs.default with el := .el0, el2Enabled := true, hstrEl2T5 := true } = .undefined ∧
      checkAccess .read Config.default { Inputs.default with el2Enabled := true, hstrEl2T5 := true } = .trap true ∧
      checkAccess .read bankedCfg { bankedIn .el1 false with el2Enabled := true, hstrT5 := true } = .trap false ∧
      checkAccess .read Config.default { Inputs.default with el2Enabled := true, hcrEl2Trvm := true } = .trap true ∧
      checkAccess .write bankedCfg { bankedIn .el1 false with el2Enabled := true, hcrTvm := true } = .trap false := by decide
theorem test_check_cells :
    checkAccess .read Config.default { Inputs.default with hstrEl2T5 := true, hcrEl2Trvm := true } = .cell .dfsr ∧
      checkAccess .read Config.default { Inputs.default with el2Enabled := true, hcrEl2Tvm := true } = .cell .dfsr ∧
      checkAccess .write Config.default { Inputs.default with el2Enabled := true, hcrEl2Trvm := true } = .cell .dfsr ∧
      checkAccess .read Config.default { Inputs.default with el2Enabled := true, hstrT5 := true } = .cell .dfsr ∧
      checkAccess .write bankedCfg { bankedIn .el2 false with hstrT5 := true, hcrTvm := true } = .cell .dfsrNS ∧
      checkAccess .read bankedCfg { bankedIn .el3 false with hstrT5 := true } = .cell .dfsrS ∧
      checkAccess .write bankedCfg (bankedIn .el3 true) = .cell .dfsrNS := by decide

/-! ## Reserved bits and reset (95_test_vectors.md sections 2.3 and 2.7) -/

theorem test_res0BothMask :
    res0BothMask Config.default = 0xFFFE0100#32 ∧ res0BothMask noRas = 0xFFFEC100#32 ∧
      res0BothMask noClass = 0xFFFE1100#32 ∧ res0BothMask { noRas with haveExtClass := false } = 0xFFFED100#32 := by decide
theorem test_stored :
    stored Config.default 0xDEADBEEF#32 = 0xDEADBEEF#32 ∧ stored hardCfg 0xDEADBEEF#32 = 0x0001BEEF#32 ∧
      stored { hardCfg with haveRas := false } 0xDEADBEEF#32 = 0x00013EEF#32 ∧
      stored { hardCfg with haveExtClass := false } 0xDEADBEEF#32 = 0x0001AEEF#32 ∧
      stored { hardCfg with haveRas := false, haveExtClass := false } 0xFFFFFFFF#32 = 0x00012EFF#32 := by decide
theorem test_resetCell :
    resetCell Config.default = ⟨0#32, 0xFFFFFFFF#32⟩ ∧ resetCell hardCfg = ⟨0#32, 0x0001FEFF#32⟩ ∧
      resetCell { hardCfg with haveRas := false } = ⟨0#32, 0x00013EFF#32⟩ ∧
      resetCell { hardCfg with haveRas := false, haveExtClass := false } = ⟨0#32, 0x00012EFF#32⟩ := by decide

/-! ## The report (95_test_vectors.md sections 2.4 and 2.5) -/

def desc (kind : FaultKind) (eae : Bool) (acc : AccessKind) : Descriptor :=
  { cell := .dfsr, eae := eae, kind := kind, access := acc, byCmo := false, byAt := false, farValid := true, aet := 0#2,
    ext := 0, domain := none }

/-- A row: known bits and unknown mask. -/
def row (cfg : Config) (d : Descriptor) (known unk : Word) : Bool := reportValue cfg d == some ⟨known, unk⟩

/-- S1 to S6. -/
theorem test_report_short_sync :
    (row Config.default (desc .alignment false .read) 0x00000001#32 0x000000F0#32 &&
      row Config.default (desc .translation2 false .write) 0x00000807#32 0x000000F0#32 &&
      row Config.default { desc .translation2 false .write with domain := some 3#4 } 0x00000837#32 0#32 &&
      row Config.default { desc .permission2 false .notStated with byCmo := true } 0x0000280F#32 0x000000F0#32 &&
      row Config.default { desc .translation1 false .notStated with byAt := true } 0x00002805#32 0x000000F0#32 &&
      row Config.default { desc .iCacheMaint false .notStated with byCmo := true } 0x00002804#32 0x000000F0#32) = true := by
  decide
/-- S9, S11, S12, S13, S14, S15. -/
theorem test_report_short_more :
    (row noClass { desc .syncExternal false .write with ext := 1 } 0x00000808#32 0x000000F0#32 &&
      row Config.default { desc .sError false .read with aet := 3#2 } 0x0000C406#32 0x000038F0#32 &&
      row noRas { desc .sError false .read with aet := 3#2 } 0x00000406#32 0x000038F0#32 &&
      row noClass { desc .sError false .read with aet := 2#2 } 0x00008406#32 0x000028F0#32 &&
      row Config.default (desc .tlbConflict false .read) 0x00000400#32 0x000000F0#32 &&
      row Config.default (desc .debug false .notStated) 0x00000002#32 0x000008F0#32) = true := by decide
/-- S16 to S20, S22, S23. -/
theorem test_report_short_rest :
    (row noRas (desc .syncParity false .read) 0x00000409#32 0x000110F0#32 &&
      row noRas (desc .sErrorParity false .read) 0x00000408#32 0x000038F0#32 &&
      row noRas (desc .syncParityTTW2 false .write) 0x00000C0E#32 0x000030F0#32 &&
      row Config.default (desc .lockdown false .write) 0x00000C04#32 0x000020F0#32 &&
      row Config.default (desc .unsupportedExclusive false .read) 0x00000405#32 0x000020F0#32 &&
      row Config.default { desc .accessFlag1 false .read with domain := some 0#4 } 0x00000003#32 0#32 &&
      row Config.default { desc .permission1 false .write with domain := some 15#4 } 0x000008FD#32 0#32) = true := by decide
/-- L1 to L6. -/
theorem test_report_long_sync :
    (row Config.default (desc .translation3 true .read) 0x00000207#32 0#32 &&
      row Config.default (desc .permission2 true .write) 0x00000A0E#32 0#32 &&
      row Config.default (desc .alignment true .read) 0x00000221#32 0#32 &&
      row Config.default (desc .addressSize0 true .read) 0x00000200#32 0#32 &&
      row Config.default { desc .sError true .read with aet := 1#2 } 0x00004211#32 0x00003800#32 &&
      row Config.default (desc .sError true .read) 0x00000211#32 0x00003800#32) = true := by decide
/-- L7 (its ExT is 0; here without classification), L8, L9, L11, L12, L15, L16. -/
theorem test_report_long_rest :
    (row noClass { desc .syncExternal true .read with farValid := false } 0x00010210#32 0#32 &&
      row Config.default { desc .translation1 true .notStated with byAt := true } 0x00000A05#32 0x00002000#32 &&
      row Config.default { desc .permission3 true .notStated with byCmo := true } 0x00002A0F#32 0#32 &&
      row noRas (desc .syncParityTTW3 true .read) 0x0000021F#32 0x00003000#32 &&
      row Config.default (desc .tlbConflict true .write) 0x00000A30#32 0#32 &&
      row Config.default (desc .unsupportedExclusive true .write) 0x00000A35#32 0x00002000#32 &&
      row noRas { desc .sErrorParity true .read with byCmo := true } 0x00000A19#32 0x00003000#32) = true := by decide
/-- The descriptors the two sections call inadmissible. -/
theorem test_report_inadmissible :
    inadmissible Config.default Inputs.default (desc .addressSize1 false .read) = some .noCode ∧
      inadmissible Config.default Inputs.default (desc .domain1 true .read) = some .noCode ∧
      inadmissible Config.default Inputs.default (desc .syncParity false .read) = some .needsRasAbsent ∧
      inadmissible { Config.default with haveImpdefLockdown := false } Inputs.default (desc .lockdown false .read) =
        some .lockdownAbsent ∧
      inadmissible Config.default Inputs.default { desc .alignment false .read with byCmo := true, byAt := true } =
        some .cmoAndAt := by decide

/-! ## Decoding (95_test_vectors.md section 2.6) and the counts of 10_state.md R42 -/

theorem test_decodeFault :
    decodeFault Config.default 0x00000805#32 = some .translation1 ∧ decodeFault Config.default 0x00000406#32 = some .sError ∧
      decodeFault Config.default 0x00000409#32 = none ∧ decodeFault noRas 0x00000409#32 = some .syncParity ∧
      decodeFault Config.default 0#32 = none ∧ decodeFault Config.default 0x00000200#32 = some .addressSize0 ∧
      decodeFault Config.default 0x00000211#32 = some .sError ∧ decodeFault Config.default 0xFFFFFFFF#32 = none := by decide
theorem test_kind_counts :
    FaultKind.all.length = 31 ∧ (FaultKind.all.filter (fun k => k.fs.isSome)).length = 22 ∧
      (FaultKind.all.filter (fun k => k.status.isSome)).length = 28 ∧
      (FaultKind.all.filter (fun k => k.fs.isSome && k.status.isSome)).length = 19 := by decide
/-- The regular pattern of the Long-descriptor codes (10_state.md R41): STATUS[1:0] is the level. -/
theorem test_long_levels :
    (FaultKind.all.filter (fun k => k.level.isSome)).all
      (fun k => k.status.all (fun c => k.level == some (c.extractLsb' 0 2).toNat)) = true := by decide
/-- P4: the fields of 0x00000807 under the Short-descriptor layout. -/
theorem test_view :
    viewOf false 0x00000807#32 =
        .short { fnv := false, aet := 0#2, cm := false, ext := false, wnr := true, lpae := false } 0b00111#5 0#4 := by decide
/-- What a software reader may conclude from FnV and AET in `v`. -/
def farOf (v : Word) : Option FarStatus := farStatusOf (decodeFault Config.default v) (commonFieldsOf v).fnv
def errorOf (cfg : Config) (v : Word) : Option ErrorState := errorStateOf cfg (decodeFault cfg v) (commonFieldsOf v).aet
/-- R22, R33, N20: FnV speaks of DFAR for `SyncExternal` (both layouts) and for no other kind or code. -/
theorem test_farStatus :
    farOf 0x00010008#32 = some .notValid ∧ farOf 0x00000210#32 = some .valid ∧ farOf 0x00000807#32 = none ∧
      farOf 0x00010807#32 = none ∧ farOf 0x0000000C#32 = none ∧ farOf 0#32 = none := by decide
/-- R23, R34: AET speaks for `SError` with RAS only. -/
theorem test_errorState :
    errorOf Config.default 0x0000C406#32 = some .recoverable ∧ errorOf Config.default 0x00004211#32 = some .unrecoverable ∧
      errorOf noRas 0x0000C406#32 = none ∧ errorOf Config.default 0x0000C805#32 = none := by decide

/-! ## Placing an instruction, and one step -/

/-- The four table words, each as the first instruction after reset, run. -/
theorem test_step_runs_table_words :
    ([0x0E150F10, 0x0E050F10, 0xEE150F10, 0xEE050F10].all
      (fun w => nextHas (step (State.reset.withFetchWord 32 w)) (fun s => s.response == some .completed && s.events == []))) =
      true := by decide

/-! ## Witnesses: the hypotheses of each statement that has some are met together -/

theorem witness_AccessFromEl0IsUndefined :
    Ready (.mrcA32 14#4 0#4) (withIn { Inputs.default with el := .el0 }) ∧
      (withIn { Inputs.default with el := .el0 }).inputs.el = .el0 := by decide
def trap64 : State := withIn { Inputs.default with el2Enabled := true, hcrEl2Trvm := true }
theorem witness_AArch64TrapFromEl1 :
    Ready (.mrcT32 0#4) trap64 ∧ trap64.inputs.el = .el1 ∧ trap64.inputs.el2Enabled = true ∧
      trap64.inputs.el2AArch32 = false ∧ (Instr.mrcT32 0#4).dir = .read ∧ trap64.inputs.hcrEl2Trvm = true := by decide
def trap32 : State := withIn { Inputs.default with el2Enabled := true, el2AArch32 := true, hcrTvm := true }
theorem witness_HypTrapFromEl1 :
    Ready (.mcrA32 0#4 14#4) trap32 ∧ trap32.inputs.el = .el1 ∧ trap32.inputs.el2Enabled = true ∧
      trap32.inputs.el2AArch32 = true ∧ (Instr.mcrA32 0#4 14#4).dir = .write ∧ trap32.inputs.hcrTvm = true := by decide
/-- Both sides of the equivalence: a trap, and no trap with the other direction's control set. -/
theorem witness_TrapControlsActFromEl1Only :
    Ready (.mrcT32 0#4) trap64 ∧ nextHas (exec (.mrcT32 0#4) trap64) (fun s => s.response == some (.trapEL2 true 3#8)) = true ∧
      Ready (.mcrT32 0#4) trap64 ∧ nextHas (exec (.mcrT32 0#4) trap64) (fun s => s.response == some .completed) = true := by
  decide
/-- A state for each clause: EL0; EL1 untrapped with EL2 in either state; EL2; EL3. -/
theorem witness_PrivilegeDecidesAccess :
    Ready (.mrcA32 14#4 14#4) (withIn { Inputs.default with el := .el0 }) ∧ Ready (.mrcA32 0#4 14#4) (withIn Inputs.default) ∧
      Ready (.mcrT32 0#4) trap64 ∧ (trap64.inputs.hstrEl2T5 = false ∧ trap64.inputs.hcrEl2Tvm = false) ∧
      Ready (.mrcT32 0#4) trap32 ∧ (trap32.inputs.hstrT5 = false ∧ trap32.inputs.hcrTrvm = false) ∧
      Ready (.mcrT32 14#4) (bankedState .el2 false) ∧ Ready (.mrcT32 14#4) (bankedState .el3 false) := by decide
theorem witness_ReadFollowsPseudocode :
    (Instr.mrcA32 0#4 14#4).dir = .read ∧ Ready (.mrcA32 0#4 14#4) State.reset ∧
      (14 : Fin 15).val = (Instr.mrcA32 0#4 14#4).rt.toNat := by decide
theorem witness_WriteFollowsPseudocode :
    (Instr.mcrT32 14#4).dir = .write ∧ Ready (.mcrT32 14#4) State.reset ∧
      (14 : Fin 15).val = (Instr.mcrT32 14#4).rt.toNat := by decide
/-- Both kinds of bit: after reset bit 31 of `DFSR` is unknown, and after a write every bit is known. -/
theorem witness_MrcReadsSelectedCell :
    (Instr.mrcT32 0#4).dir = .read ∧ Ready (.mrcT32 0#4) State.reset ∧ (0 : Fin 15).val = (Instr.mrcT32 0#4).rt.toNat ∧
      checkAccess .read State.reset.cfg State.reset.inputs = .cell .dfsr ∧ (State.reset.cell .dfsr).bit 31 = none ∧
      ({ State.reset with dfsr := KBits.known 1#32 }.cell .dfsr).bit 0 = some true := by decide
/-- Both policies, with a reserved bit (31) and one that is not (16). -/
theorem witness_McrStoresRegister :
    (Instr.mcrA32 14#4 14#4).dir = .write ∧ Ready (.mcrA32 14#4 14#4) (State.resetWith hardCfg) ∧
      (14 : Fin 15).val = (Instr.mcrA32 14#4 14#4).rt.toNat ∧
      checkAccess .write (State.resetWith hardCfg).cfg (State.resetWith hardCfg).inputs = .cell .dfsr ∧
      hardCfg.res0Policy = .hardwired ∧ ReservedBit hardCfg 31 ∧ ¬ ReservedBit hardCfg 16 ∧
      Ready (.mcrA32 14#4 14#4) State.reset ∧ Config.default.res0Policy = .storage := by
  refine ⟨?_, ?_, ?_, ?_, ?_, ?_, ?_, ?_, ?_⟩ <;> first | decide | (unfold ReservedBit; decide)
/-- With no exception, with UNDEFINED, and with a trap to hold back. -/
theorem witness_FailedConditionMovesNothing :
    State.reset.cfg.haveAnyAArch32 = true ∧ (Instr.mrcA32 1#4 2#4).wf = true ∧
      condPasses (Instr.mrcA32 1#4 2#4).cond { Inputs.default with condPassed := false } = false ∧
      checkAccess .read Config.default { Inputs.default with condPassed := false } = .cell .dfsr ∧
      checkAccess .read Config.default { Inputs.default with condPassed := false, el := .el0 } = .undefined ∧
      checkAccess .read Config.default { trap64.inputs with condPassed := false } = .trap true := by decide
theorem witness_ExceptionChangesNothing :
    ∃ s', exec (.mrcT32 0#4) trap64 = .next s' ∧ s'.response ≠ some .completed := ⟨_, rfl, by decide⟩
def afterWrite : State := writeFrom .dfsr 1 State.reset
theorem witness_WriteThenReadReturnsStored :
    Ready (.mcrA32 14#4 1#4) State.reset ∧ (1 : Fin 15).val = (Instr.mcrA32 14#4 1#4).rt.toNat ∧
      checkAccess .write State.reset.cfg State.reset.inputs = .cell .dfsr ∧
      exec (.mcrA32 14#4 1#4) State.reset = .next afterWrite ∧ Ready (.mrcT32 0#4) afterWrite ∧
      (0 : Fin 15).val = (Instr.mrcT32 0#4).rt.toNat ∧ checkAccess .read afterWrite.cfg afterWrite.inputs = .cell .dfsr ∧
      exec (.mrcT32 0#4) afterWrite = .next (readInto .dfsr 0 afterWrite) := by
  refine ⟨?_, ?_, ?_, rfl, ?_, ?_, ?_, rfl⟩ <;> decide
/-- An access that does change `DFSR_S`. -/
theorem witness_CopiesAreIndependent :
    ∃ s', exec (.mcrA32 14#4 1#4) (bankedState .el3 false) = .next s' ∧
      s'.cell .dfsrS ≠ (bankedState .el3 false).cell .dfsrS := ⟨_, rfl, by decide⟩
def lowRun : State := { bankedState .el1 false with events := [.fetch 0xEE150F10#32, .reset] }
theorem witness_SecureCopyIsNeverObserved :
    NeverAtEl3 lowRun ∧ AgreeButSecure lowRun { lowRun with dfsrS := KBits.known 7#32 } ∧
      nextHas (runSteps 2 lowRun) (fun s => s.events == []) = true := by decide
theorem witness_CheckReadsNoControlWithoutEl2 :
    ∃ i j : Inputs, i ≠ j ∧ i.el = j.el ∧ i.el3AArch32 = j.el3AArch32 ∧ i.scrNS = j.scrNS ∧ i.el = .el1 ∧
      i.el2Enabled = false ∧ j.el2Enabled = false ∧
      ({ i with el := .el2 }.el = .el2 ∧ { i with el := .el3 }.el = .el3) :=
  ⟨Inputs.default, { Inputs.default with hstrT5 := true }, by decide⟩
theorem witness_AccessReachesExistingCell :
    InputsConsistent Config.default Inputs.default ∧ checkAccess .read Config.default Inputs.default = .cell .dfsr ∧
      InputsConsistent bankedCfg (bankedIn .el3 false) ∧
      checkAccess .read bankedCfg (bankedIn .el3 false) = .cell .dfsrS := by decide
theorem witness_HardwiredBitsReadZero :
    CellsInv (State.resetWith hardCfg) ∧ hardCfg.res0Policy = .hardwired ∧ Ready (.mrcA32 14#4 0#4) (State.resetWith hardCfg) ∧
      checkAccess .read hardCfg Inputs.default = .cell .dfsr ∧ ReservedBit hardCfg 8 := by
  refine ⟨?_, by decide, by decide, by decide, by unfold ReservedBit; decide⟩
  intro c
  cases c <;> decide
theorem witness_DecodeOfEncode :
    (Instr.mrcA32 14#4 14#4).wf = true ∧ (Instr.mcrA32 0#4 13#4).wf = true ∧ (Instr.mrcT32 14#4).wf = true ∧
      (Instr.mcrT32 12#4).wf = true := by decide
theorem witness_EncodeOfDecode : decode .a32 0x1E152F10#32 = .ok (.mrcA32 1#4 2#4) := by rfl
theorem witness_FiveFieldsSelectDfsr :
    (14#4 : BitVec 4) ≠ 15#4 ∧ (dfsrAccess .read 14#4).rt ≠ 15#4 ∧ (dfsrAccess .read 14#4).isDfsr = true ∧
      { dfsrAccess .read 14#4 with crn := 6#4 }.isDfsr = false := by decide
theorem witness_T32WordIsA32Always : decodeHalfwords 0xEE15#16 0xEF10#16 = .ok (.mrcT32 14#4) := by rfl
theorem witness_UnadmittedRegisterIsRefused :
    State.reset.cfg.haveAnyAArch32 = true ∧ (14#4 : BitVec 4) ≠ 15#4 := by decide
theorem witness_AssemblerLineNamesInstruction :
    ∃ l : AsmLine, l.coproc = 15#4 ∧ l.opc1 = 0#3 ∧ l.crn = 5#4 ∧ l.crm = 0#4 ∧ l.opc2 = some 0#3 ∧ l.c ≠ some 15#4 ∧
      l.rt ≠ 15#4 ∧ l.rt ≠ 13#4 :=
  ⟨{ dir := .write, c := some 1#4, q := none, coproc := 15#4, opc1 := 0#3, rt := 14#4, crn := 5#4, crm := 0#4,
     opc2 := some 0#3 }, by decide⟩
/-- Reports to each cell that exists. -/
theorem witness_ReportReplacesCell :
    inadmissible State.reset.cfg State.reset.inputs (desc .alignment false .read) = none ∧
      inadmissible bankedCfg (bankedIn .el1 false) { desc .alignment true .read with cell := .dfsrS } = none := by decide
/-- Reports that have a step, under both layouts, for the field statements: FnV, AET, CM, ExT, WnR, the code, LPAE, Domain. -/
theorem witness_ReportFnv : ∃ s', perform (.report (desc .syncExternal false .read)) State.reset = .next s' := ⟨_, rfl⟩
theorem witness_ReportAet :
    (∃ s', perform (.report (desc .sError true .read)) State.reset = .next s') ∧ State.reset.cfg.haveRas = true ∧
      ∃ s', perform (.report (desc .alignment true .read)) State.reset = .next s' := ⟨⟨_, rfl⟩, rfl, ⟨_, rfl⟩⟩
theorem witness_ReportCm :
    ∃ s', perform (.report { desc .permission2 false .notStated with byCmo := true }) State.reset = .next s' := ⟨_, rfl⟩
theorem witness_ReportExt : ∃ s', perform (.report (desc .syncExternalTTW1 false .read)) State.reset = .next s' := ⟨_, rfl⟩
theorem witness_ReportWnr : ∃ s', perform (.report (desc .translation2 false .write)) State.reset = .next s' := ⟨_, rfl⟩
theorem witness_ReportStatusCode :
    (∃ s', perform (.report (desc .tlbConflict false .read)) State.reset = .next s') ∧ (0b10000#5, .tlbConflict) ∈ fsRows ∧
      (∃ s', perform (.report (desc .unsupportedExclusive true .read)) State.reset = .next s') ∧
      (0b110101#6, .unsupportedExclusive) ∈ statusRows := ⟨⟨_, rfl⟩, by decide, ⟨_, rfl⟩, by decide⟩
theorem witness_ReportLpae :
    (∃ s', perform (.report (desc .debug false .read)) State.reset = .next s') ∧
      ∃ s', perform (.report (desc .debug true .read)) State.reset = .next s' := ⟨⟨_, rfl⟩, ⟨_, rfl⟩⟩
theorem witness_ReportRemainingBits :
    (∃ s', perform (.report { desc .domain1 false .read with domain := some 5#4 }) State.reset = .next s') ∧
      ∃ s', perform (.report (desc .translation3 true .read)) State.reset = .next s' := ⟨⟨_, rfl⟩, ⟨_, rfl⟩⟩
theorem witness_ReportDecodesToItsKind :
    (∃ s', perform (.report (desc .iCacheMaint false .read)) State.reset = .next s') ∧
      ∃ s', perform (.report (desc .addressSize0 true .read)) State.reset = .next s' := ⟨⟨_, rfl⟩, ⟨_, rfl⟩⟩
theorem witness_ShortCodesDecodeByTable : (0x0000041F#32 : Word).getLsbD 9 = false := by decide
theorem witness_LongCodesDecodeByTable : (0xFFFFFFFF#32 : Word).getLsbD 9 = true := by decide
theorem witness_EsrWriteStoresInDfsr :
    ¬ (State.reset.cfg.haveEL3 = true ∧ State.reset.inputs.el3AArch32 = true) ∧ State.reset.cfg.res0Policy = .storage := by
  decide
theorem witness_EsrWriteReachesNoOtherCell :
    (bankedCfg.haveEL3 = true ∧ (bankedIn .el1 false).el3AArch32 = true) ∧
      ¬ (hardCfg.haveEL3 = true ∧ Inputs.default.el3AArch32 = true) ∧ hardCfg.res0Policy = .hardwired := by decide
/-- Bits at the ends of the ranges: field bits 0, 7, 9 and 16; reserved bits 8, 17 and 31. -/
theorem witness_ResetLeavesFieldsUnknown :
    ¬ ReservedBit hardCfg 0 ∧ ¬ ReservedBit hardCfg 7 ∧ ¬ ReservedBit hardCfg 9 ∧ ¬ ReservedBit hardCfg 16 := by
  unfold ReservedBit; decide
theorem witness_ResetOfReservedBits :
    ReservedBit hardCfg 8 ∧ ReservedBit hardCfg 17 ∧ ReservedBit hardCfg 31 ∧ ReservedBit noRas 14 ∧ ReservedBit noClass 12 := by
  unfold ReservedBit; decide
/-- A state whose next event writes the cell `DFSR`. -/
def reportNext : State := { State.reset with events := [.report (desc .alignment true .read)] }
theorem witness_CellChangesByItsWritersOnly :
    ∃ s', step reportNext = .next s' ∧ s'.cell .dfsr ≠ reportNext.cell .dfsr := ⟨_, rfl, by decide⟩
def moveNext : State := { State.reset with events := [.setReg 14 7#32] }
theorem witness_RegisterChangesByReadOrMoveOnly :
    ∃ s', step moveNext = .next s' ∧ s'.reg 14 ≠ moveNext.reg 14 := ⟨_, rfl, by decide⟩
theorem witness_InputsChangeByMoveOnly :
    State.reset.cfg.haveAnyAArch32 = true ∧
      { State.reset with events := [.setInputs (bankedIn .el3 true)] }.events = .setInputs (bankedIn .el3 true) :: [] ∧
      ∃ s', step moveNext = .next s' := ⟨rfl, rfl, ⟨_, rfl⟩⟩
theorem witness_StepKeepsParameters : ∃ s', step reportNext = .next s' := ⟨_, rfl⟩
theorem witness_StepRunsDecodedInstruction :
    lowRun.events = .fetch 0xEE150F10#32 :: [.reset] ∧
      decode lowRun.inputs.iset 0xEE150F10#32 = .ok (.mrcA32 14#4 0#4) := ⟨rfl, rfl⟩
theorem witness_AbsentRegisterIsRefused :
    (State.resetWith { Config.default with haveAnyAArch32 := false }).cfg.haveAnyAArch32 = false := by decide
theorem witness_StepKeepsCellInvariant : CellsInv reportNext ∧ ∃ s', step reportNext = .next s' :=
  ⟨fun c => by cases c <;> decide, ⟨_, rfl⟩⟩

end Sys2Proof.Tests
end

section
/-! Without AArch32 at any Exception level the register is absent (00_scope.md R3, D20). -/

namespace Sys2Proof.Machine

/-- The guard comes before the events are looked at, so a step is refused even when no event is left. -/
theorem step_absent (s : State) (h : s.cfg.haveAnyAArch32 = false) : step s = .refused .registerAbsent :=
  if_pos h

/-- Settles O49: `step` has its own guard, and the four arms of `exec` share the guard of `access`. -/
theorem absentRegisterIsRefused : Obligations.AbsentRegisterIsRefused :=
  fun s h => ⟨step_absent s h, fun i => exec_absent i s h⟩

end Sys2Proof.Machine
end

section
/-! Facts the statements on the state share: reserved bits and reads bit by bit, and the bits [10:0] of a report value. -/

namespace Sys2Proof.Machine

open Sys2Proof.Claims

/-- 10_state.md R20: the reserved bits of the statements are those of the model's mask. -/
theorem reservedBit_iff (cfg : Config) (k : Nat) (hk : k < 32) :
    ReservedBit cfg k ↔ (res0BothMask cfg).getLsbD k = true := by
  simp [getLsbD_res0BothMask cfg k hk, ReservedBit, or_assoc]

/-- A known bit is read as held, whatever is drawn. -/
theorem getLsbD_read_of_bit {n : Nat} (c : KBits n) (draw : BitVec n) (k : Nat) (b : Bool) (h : c.bit k = some b) :
    (c.read draw).getLsbD k = b := by
  rw [KBits.getLsbD_read, h]

/-- Bits [10:0] of a report value under the Short-descriptor layout. -/
theorem bit_append_reportLowShort (high : KBits 21) (d : Descriptor) (code : BitVec 5) (k : Nat) (hk : k < 11) :
    KBits.bit (n := 32) (high.append (reportLowShort d code)) k = (reportLowShort d code).bit k :=
  (KBits.bit_append _ _ k).trans (if_pos hk)

/-- Bits [10:0] of a report value under the Long-descriptor layout. -/
theorem bit_append_reportLowLong (high : KBits 21) (code : BitVec 6) (k : Nat) (hk : k < 11) :
    KBits.bit (n := 32) (high.append (reportLowLong code)) k = (reportLowLong code).bit k :=
  (KBits.bit_append _ _ k).trans (if_pos hk)

end Sys2Proof.Machine
end

section
/-! The status codes: each table read from code to kind is the table read from kind to code (10_state.md R28, R41, R43). -/

namespace Sys2Proof.Machine

open Sys2Proof.Claims

theorem FaultKind.mem_all (k : FaultKind) : k ∈ FaultKind.all := by
  cases k <;> decide

/-- Looking a code up by `find?` inverts the table when the row found by the code of `k` is always that of `k`. -/
theorem find?_code_eq_some_iff {n : Nat} (f : FaultKind → Option (BitVec n))
    (hf : ∀ k ∈ FaultKind.all, f k ≠ none → FaultKind.all.find? (fun l => f l == f k) = some k)
    (code : BitVec n) (k : FaultKind) :
    FaultKind.all.find? (fun l => f l == some code) = some k ↔ f k = some code := by
  constructor
  · intro h
    simpa using List.find?_some h
  · intro h
    have hk := hf k k.mem_all (by simp [h])
    rwa [h] at hk

theorem kindOfFs_eq_some_iff (code : BitVec 5) (k : FaultKind) : kindOfFs code = some k ↔ k.fs = some code :=
  find?_code_eq_some_iff FaultKind.fs (by decide) code k

theorem kindOfStatus_eq_some_iff (code : BitVec 6) (k : FaultKind) :
    kindOfStatus code = some k ↔ k.status = some code :=
  find?_code_eq_some_iff FaultKind.status (by decide) code k

/-- 10_state.md R43 on a value with LPAE 0. -/
theorem decodeFault_short_iff (cfg : Config) (v : Word) (k : FaultKind) (h : lpaeOf v = false) :
    decodeFault cfg v = some k ↔ k.fs = some (fsOf v) ∧ k.applies cfg = true := by
  simp [decodeFault, h, Option.filter_eq_some_iff, kindOfFs_eq_some_iff]

/-- 10_state.md R43 on a value with LPAE 1. -/
theorem decodeFault_long_iff (cfg : Config) (v : Word) (k : FaultKind) (h : lpaeOf v = true) :
    decodeFault cfg v = some k ↔ k.status = some (statusOf v) ∧ k.applies cfg = true := by
  simp [decodeFault, h, Option.filter_eq_some_iff, kindOfStatus_eq_some_iff]

/-- The rows of 10_state.md R28 are the codes of the model. -/
theorem mem_fsRows_iff (code : BitVec 5) (k : FaultKind) : (code, k) ∈ fsRows ↔ k.fs = some code := by
  have sound : ∀ r ∈ fsRows, r.2.fs = some r.1 := by decide
  have complete : ∀ k ∈ FaultKind.all, ∀ c ∈ k.fs, (c, k) ∈ fsRows := by decide
  exact ⟨sound (code, k), complete k k.mem_all code⟩

/-- The rows of 10_state.md R41 are the codes of the model. -/
theorem mem_statusRows_iff (code : BitVec 6) (k : FaultKind) : (code, k) ∈ statusRows ↔ k.status = some code := by
  have sound : ∀ r ∈ statusRows, r.2.status = some r.1 := by decide
  have complete : ∀ k ∈ FaultKind.all, ∀ c ∈ k.status, (c, k) ∈ statusRows := by decide
  exact ⟨sound (code, k), complete k k.mem_all code⟩

/-- A row applies unless it is marked for RAS absent and RAS is implemented (D16). -/
theorem applies_iff (cfg : Config) (k : FaultKind) :
    k.applies cfg = true ↔ ¬ (k ∈ rasAbsentRows ∧ cfg.haveRas = true) := by
  have marked : ∀ k ∈ FaultKind.all, k.needsRasAbsent = decide (k ∈ rasAbsentRows) := by decide
  simp [FaultKind.applies, marked k k.mem_all, imp_iff_not_or]

/-- Settles O38: the lookup by code inverts the model's column, which is the transcribed table. -/
theorem shortCodesDecodeByTable : Obligations.ShortCodesDecodeByTable := by
  intro cfg v k h
  rw [decodeFault_short_iff cfg v k h, applies_iff, mem_fsRows_iff]
  rfl

/-- Settles O39: the same for the Long-descriptor column. -/
theorem longCodesDecodeByTable : Obligations.LongCodesDecodeByTable := by
  intro cfg v k h
  rw [decodeFault_long_iff cfg v k h, applies_iff, mem_statusRows_iff]
  rfl

end Sys2Proof.Machine
end

section
/-! A reported value decodes to its kind: the bits that hold the code and LPAE are known (60_exceptions.md R132). -/

namespace Sys2Proof.Machine

theorem getLsbD_fsOf (v : Word) (k : Nat) (hk : k < 5) :
    (fsOf v).getLsbD k = if k < 4 then v.getLsbD k else v.getLsbD 10 := by
  refine (BitVec.getLsbD_append (x := v.extractLsb' 10 1) (y := v.extractLsb' 0 4)).trans ?_
  by_cases h4 : k < 4
  · simp [h4]
  · obtain rfl : k = 4 := by omega
    simp

theorem applies_of_admissible (cfg : Config) (inputs : Inputs) (d : Descriptor)
    (h : inadmissible cfg inputs d = none) : d.kind.applies cfg = true := by
  unfold inadmissible at h
  split_ifs at h with hcell hcode happly
  simpa using happly

/-- A report under the Short-descriptor layout is read with LPAE 0 and its code, whatever is drawn. -/
theorem read_reportLowShort (high : KBits 21) (d : Descriptor) (code : BitVec 5) (v : KWord)
    (hv : v = high.append (reportLowShort d code)) (draw : Word) :
    lpaeOf (v.read draw) = false ∧ fsOf (v.read draw) = code := by
  subst hv
  obtain ⟨hlow, -, -, hlpae, htop⟩ := bit_reportLowShort d code
  have held := fun k b hk (hb : (reportLowShort d code).bit k = some b) =>
    getLsbD_read_of_bit _ draw k b ((bit_append_reportLowShort high d code k hk).trans hb)
  refine ⟨held 9 _ (by omega) hlpae, BitVec.eq_of_getLsbD_eq fun k hk => ?_⟩
  rw [getLsbD_fsOf _ k hk]
  split
  · next h4 => exact held k _ (by omega) (hlow k h4)
  · obtain rfl : k = 4 := by omega
    exact held 10 _ (by omega) htop

/-- A report under the Long-descriptor layout is read with LPAE 1 and its code, whatever is drawn. -/
theorem read_reportLowLong (high : KBits 21) (code : BitVec 6) (v : KWord)
    (hv : v = high.append (reportLowLong code)) (draw : Word) :
    lpaeOf (v.read draw) = true ∧ statusOf (v.read draw) = code := by
  subst hv
  obtain ⟨hlow, -, -, -, hlpae, -⟩ := bit_reportLowLong code
  have held := fun k b hk (hb : (reportLowLong code).bit k = some b) =>
    getLsbD_read_of_bit _ draw k b ((bit_append_reportLowLong high code k hk).trans hb)
  refine ⟨held 9 _ (by omega) hlpae, BitVec.eq_of_getLsbD_eq fun k hk => ?_⟩
  have hbit := held k _ (by omega) (hlow k hk)
  simpa only [statusOf, BitVec.getLsbD_extractLsb', hk, decide_true, Bool.true_and, Nat.zero_add] using hbit

/-- A report value that applies decodes to the kind it was made for, by the layout it was made in. -/
theorem decodeFault_read_reportValue (cfg : Config) (d : Descriptor) (v : KWord) (draw : Word)
    (ha : d.kind.applies cfg = true) (h : reportValue cfg d = some v) :
    decodeFault cfg (v.read draw) = some d.kind ∧ lpaeOf (v.read draw) = d.eae := by
  obtain ⟨he, code, hc, hv⟩ | ⟨he, code, hc, hv⟩ := reportValue_some cfg d v h
  · obtain ⟨hl, hcode⟩ := read_reportLowShort _ d code v hv draw
    exact ⟨(decodeFault_short_iff cfg _ _ hl).2 ⟨by rw [hcode, hc], ha⟩, by rw [hl, he]⟩
  · obtain ⟨hl, hcode⟩ := read_reportLowLong _ code v hv draw
    exact ⟨(decodeFault_long_iff cfg _ _ hl).2 ⟨by rw [hcode, hc], ha⟩, by rw [hl, he]⟩

/-- Settles O37: the code and LPAE are among the known bits of a report, in either layout. -/
theorem reportDecodesToItsKind : Obligations.ReportDecodesToItsKind := by
  intro d s s' draw h
  obtain ⟨hadm, v, hv, rfl⟩ := report_next d s s' h
  rw [State.cell_setCell_self]
  exact decodeFault_read_reportValue s.cfg d v draw (applies_of_admissible _ _ _ hadm) hv

end Sys2Proof.Machine
end

section
/-! The invariant of the cells: reset, each value a writer leaves, and so every step (10_state.md R20, R44, R45). -/

namespace Sys2Proof.Machine

open Sys2Proof.Claims

/-- The mask of the invariant, bit by bit: each reserved bit is known to be 0. -/
theorem masked_eq_zero_iff (cfg : Config) (c : KWord) :
    (c.val ||| c.unk) &&& res0BothMask cfg = 0#32 ↔ ∀ k, k < 32 → ReservedBit cfg k → c.bit k = some false := by
  rw [BitVec.eq_of_getLsbD_eq_iff]
  refine forall₂_congr fun k hk => ?_
  rw [reservedBit_iff cfg k hk, BitVec.getLsbD_and, BitVec.getLsbD_or, BitVec.getLsbD_zero]
  unfold KBits.bit
  cases c.unk.getLsbD k <;> cases c.val.getLsbD k <;> simp

theorem cellInv_iff (cfg : Config) (c : KWord) :
    CellInv cfg c ↔ c.canonical = true ∧
      (cfg.res0Policy = .hardwired → ∀ k, k < 32 → ReservedBit cfg k → c.bit k = some false) := by
  unfold CellInv
  rw [masked_eq_zero_iff]

theorem cellInv_resetCell (cfg : Config) : CellInv cfg (resetCell cfg) := by
  refine (cellInv_iff _ _).2 ⟨canonical_resetCell cfg, fun hp k hk hr => ?_⟩
  rw [bit_resetCell cfg k hk, if_pos ⟨hp, (reservedBit_iff cfg k hk).1 hr⟩]

theorem cellInv_known_stored (cfg : Config) (v : Word) : CellInv cfg (KBits.known (stored cfg v)) := by
  refine (cellInv_iff _ _).2 ⟨KBits.canonical_known _, fun hp k hk hr => ?_⟩
  rw [KBits.bit_known, getLsbD_stored cfg v k hk, (reservedBit_iff cfg k hk).1 hr]
  simp [hp]

/-- Under `storage` a cell may hold any known bits. -/
theorem cellInv_known_of_storage (cfg : Config) (v : Word) (h : cfg.res0Policy = .storage) :
    CellInv cfg (KBits.known v) :=
  ⟨KBits.canonical_known v, fun hp => by simp [h] at hp⟩

/-- 60_exceptions.md R130: bit [8] of a report is 0 in both layouts. -/
theorem bit_reportValue_eight (cfg : Config) (d : Descriptor) (v : KWord) (h : reportValue cfg d = some v) :
    v.bit 8 = some false := by
  obtain ⟨-, code, -, rfl⟩ | ⟨-, code, -, rfl⟩ := reportValue_some cfg d v h
  · obtain ⟨-, -, h8, -⟩ := bit_reportLowShort d code
    exact (bit_append_reportLowShort _ d code 8 (by omega)).trans h8
  · obtain ⟨-, -, -, h8, -⟩ := bit_reportLowLong code
    exact (bit_append_reportLowLong _ code 8 (by omega)).trans h8

/-- A report writes 0 to every reserved bit: AET without RAS and ExT without classification included. -/
theorem bit_reportValue_reserved (cfg : Config) (d : Descriptor) (v : KWord) (h : reportValue cfg d = some v) (k : Nat)
    (hr : ReservedBit cfg k) : v.bit k = some false := by
  have high := bit_reportValue_high cfg d v h
  obtain ⟨-, hext, -, haet0, haet1, -, hzero⟩ := bit_reportHigh cfg d
  obtain hk | rfl | ⟨hras, rfl | rfl⟩ | ⟨hclass, rfl⟩ := hr
  · rw [high k (by omega), hzero (k - 11) (by omega)]
  · exact bit_reportValue_eight cfg d v h
  · rw [high 14 (by omega), haet0]
    simp [aetField, hras]
  · rw [high 15 (by omega), haet1]
    simp [aetField, hras]
  · rw [high 12 (by omega), hext]
    simp [extField, hclass, KBits.flag]

theorem cellInv_reportValue (cfg : Config) (d : Descriptor) (v : KWord) (h : reportValue cfg d = some v) :
    CellInv cfg v :=
  (cellInv_iff _ _).2 ⟨canonical_reportValue cfg d v h, fun _ k _ => bit_reportValue_reserved cfg d v h k⟩

/-- The invariant speaks of the parameters and the cells only. -/
theorem CellsInv.of_same_cells {s s' : State} (h : CellsInv s) (hcfg : s'.cfg = s.cfg)
    (hcell : ∀ c, s'.cell c = s.cell c) : CellsInv s' := by
  intro c
  rw [hcfg, hcell]
  exact h c

theorem CellsInv.setCell {s : State} (h : CellsInv s) (c : CellName) (v : KWord) (hv : CellInv s.cfg v) :
    CellsInv (s.setCell c v) := by
  intro d
  rw [State.setCell_cfg, State.cell_setCell]
  split
  · exact hv
  · exact h d

theorem cellsInv_resetMove (s : State) : CellsInv (resetMove s) := by
  intro c
  rw [cell_resetMove]
  exact cellInv_resetCell s.cfg

/-- An access leaves the cells alone, or stores `Stored(x[t])` in one of them. -/
theorem CellsInv.of_exec {s s' : State} (h : CellsInv s) (i : Instr) (he : exec i s = .next s') : CellsInv s' := by
  obtain ⟨-, -, ⟨-, t, -, rfl⟩ | ⟨-, rfl⟩⟩ := exec_next_cases i s s' he
  · obtain ⟨r, -, hp, -⟩ | ⟨c, -, hp⟩ := performAccess_cases i.dir t s
    · rw [hp]
      exact h.of_same_cells rfl (State.cell_respond s r)
    · rw [hp]
      cases i.dir with
      | read =>
        obtain ⟨-, -, hcell, hcfg, -⟩ := readInto_frame c t s
        exact h.of_same_cells hcfg hcell
      | write =>
        exact (h.setCell c _ (cellInv_known_stored s.cfg (s.reg t))).of_same_cells rfl (State.cell_respond _ _)
  · obtain ⟨hcell, -, hcfg, -⟩ := skipAccess_frame i.dir s
    exact h.of_same_cells hcfg hcell

/-- Each event writes a cell, if it writes one, with contents it may have. -/
theorem CellsInv.of_perform {s s' : State} (h : CellsInv s) (e : Event) (hp : perform e s = .next s') : CellsInv s' := by
  obtain ⟨-, i, -, -, he⟩ | ⟨d, v, -, hv, rfl⟩ | ⟨v, -, rfl | ⟨hpol, rfl⟩⟩ | ⟨-, rfl⟩ | ⟨i, -, rfl⟩ | ⟨t, v, -, rfl⟩ :=
    perform_next_cases e s s' hp
  · exact h.of_exec i he
  · exact h.setCell d.cell v (cellInv_reportValue s.cfg d v hv)
  · exact h
  · exact h.setCell .dfsr _ (cellInv_known_of_storage s.cfg v hpol)
  · exact cellsInv_resetMove s
  · exact h.of_same_cells rfl (State.cell_setInputs s i)
  · exact h.of_same_cells rfl (State.cell_setReg s t v)

/-- Settles O51: an idle step changes nothing, and every event keeps the invariant. -/
theorem stepKeepsCellInvariant : Obligations.StepKeepsCellInvariant := by
  intro s s' h hstep
  obtain ⟨-, ⟨-, rfl⟩ | ⟨e, rest, -, hp⟩⟩ := step_next_cases s s' hstep
  · exact h
  · exact (h.of_same_cells rfl (State.cell_setEvents s rest) : CellsInv (s.setEvents rest)).of_perform e hp

theorem cellsInv_resetWith (cfg : Config) : CellsInv (State.resetWith cfg) := by
  intro c
  cases c <;> exact cellInv_resetCell cfg

/-- Settles O50: all three cells hold `resetCell`. -/
theorem resetMeetsCellInvariant : Obligations.ResetMeetsCellInvariant :=
  ⟨cellsInv_resetWith Config.default, cellsInv_resetWith⟩

end Sys2Proof.Machine
end

section
/-! The moves that write without a report: reset and the write through ESR_EL1 (10_state.md R14, R44, R45). -/

namespace Sys2Proof.Machine

open Sys2Proof.Claims

/-- Settles O42: outside the reserved bits reset leaves every bit unknown under both policies. -/
theorem resetLeavesFieldsUnknown : Obligations.ResetLeavesFieldsUnknown := by
  refine fun s => ⟨resetMove s, rfl, fun c k hk hr => ?_⟩
  rw [cell_resetMove, bit_resetCell s.cfg k hk, if_neg fun h => hr ((reservedBit_iff s.cfg k hk).2 h.2)]

/-- Settles O43: a reserved bit is 0 exactly under `hardwired`, and reset writes the cells only. -/
theorem resetOfReservedBits : Obligations.ResetOfReservedBits := by
  refine fun s => ⟨resetMove s, rfl, fun c k hk hr => ?_, rfl, rfl, rfl, rfl, rfl⟩
  rw [cell_resetMove, bit_resetCell s.cfg k hk, (reservedBit_iff s.cfg k hk).1 hr]
  cases s.cfg.res0Policy <;> rfl

theorem banked_eq_false_iff (cfg : Config) (inputs : Inputs) :
    banked cfg inputs = false ↔ ¬ (cfg.haveEL3 = true ∧ inputs.el3AArch32 = true) := by
  simp [banked]

/-- A write of one cell is all that `OnlyCell` allows. -/
theorem onlyCell_setCell (s : State) (c : CellName) (v : KWord) : OnlyCell c s (s.setCell c v) :=
  ⟨fun d hd => State.cell_setCell_of_ne s c d v hd, fun u => State.reg_setCell s c v u, State.setCell_cfg s c v,
    State.setCell_inputs s c v, State.setCell_events s c v, State.setCell_draws s c v⟩

/-- Settles O40: unbanked and under `storage` the move is `setCell` of the cell that ESR_EL1 maps. -/
theorem esrWriteStoresInDfsr : Obligations.EsrWriteStoresInDfsr := by
  intro s v hnb hpol
  have hb : banked s.cfg s.inputs = false := (banked_eq_false_iff _ _).2 hnb
  refine ⟨s.setCell .dfsr (KBits.known v), ?_, KBits.read_known v _, rfl, ?_, rfl, onlyCell_setCell s .dfsr _⟩
  · simp [perform, esrWrite, hb, hpol]
  · simp [State.esrEl1, hb]

end Sys2Proof.Machine
end

section
/-! What an access reads of the inputs: the cell it may reach, and no TTBCR.EAE (10_state.md R11, R12). -/

namespace Sys2Proof.Machine

/-- The cells the check can give: below EL3 the one of `cellBelowEl3`, at EL3 a banked copy (40_sysreg_access.md R96). -/
theorem checkAccess_cell_cases (dir : Dir) (cfg : Config) (inputs : Inputs) (c : CellName)
    (h : checkAccess dir cfg inputs = .cell c) :
    (inputs.el ≠ .el3 ∧ c = cellBelowEl3 cfg inputs) ∨ (inputs.el = .el3 ∧ (c = .dfsrS ∨ c = .dfsrNS)) := by
  unfold checkAccess at h
  cases hel : inputs.el with
  | el0 => simp [hel] at h
  | el1 =>
    refine .inl ⟨by simp, ?_⟩
    simp only [hel] at h
    split_ifs at h
    cases h
    rfl
  | el2 =>
    simp only [hel] at h
    cases h
    exact .inl ⟨by simp, rfl⟩
  | el3 =>
    simp only [hel] at h
    cases h
    refine .inr ⟨rfl, ?_⟩
    cases inputs.scrNS
    · exact .inl rfl
    · exact .inr rfl

theorem cellBelowEl3_eq_dfsr_iff (cfg : Config) (inputs : Inputs) :
    cellBelowEl3 cfg inputs = .dfsr ↔ banked cfg inputs = false := by
  unfold cellBelowEl3
  cases banked cfg inputs <;> simp

/-- Settles O17: below EL3 the check asks whether the register is banked, and the premises make it banked at EL3. -/
theorem accessReachesExistingCell : Obligations.AccessReachesExistingCell := by
  rintro dir cfg inputs c ⟨hel3, -, -⟩ h
  rw [← banked_eq_false_iff]
  obtain ⟨-, rfl⟩ | ⟨hel, hc⟩ := checkAccess_cell_cases dir cfg inputs c h
  · exact cellBelowEl3_eq_dfsr_iff cfg inputs
  · obtain ⟨hhave, h32⟩ := hel3 hel
    have hb : banked cfg inputs = true := by simp [banked, hhave, h32]
    obtain rfl | rfl := hc <;> simp [hb]

/-- The answer with its next state, if it is one, replaced. -/
def mapNext (f : State → State) : Answer → Answer
  | .next s => .next (f s)
  | .fault r => .fault r
  | .refused r => .refused r

theorem transfer_setInputs (dir : Dir) (c : CellName) (t : Fin 15) (s : State) (j : Inputs) :
    transfer dir c t (s.setInputs j) = (transfer dir c t s).setInputs j := by
  cases dir <;> cases c <;> rfl

/-- An access whose condition passed reads the inputs through the check only. -/
theorem performAccess_setInputs (dir : Dir) (t : Fin 15) (s : State) (j : Inputs)
    (hcheck : checkAccess dir s.cfg j = checkAccess dir s.cfg s.inputs) :
    performAccess dir t (s.setInputs j) = (performAccess dir t s).setInputs j := by
  unfold performAccess
  rw [State.setInputs_cfg, State.setInputs_inputs, hcheck]
  cases checkAccess dir s.cfg s.inputs with
  | undefined => rfl
  | trap aarch64 => rfl
  | cell c => exact transfer_setInputs dir c t s j

/-- So does an access whose condition failed. -/
theorem skipAccess_setInputs (dir : Dir) (s : State) (j : Inputs)
    (hcheck : checkAccess dir s.cfg j = checkAccess dir s.cfg s.inputs) :
    skipAccess dir (s.setInputs j) = (skipAccess dir s).setInputs j := by
  unfold skipAccess
  rw [State.setInputs_cfg, State.setInputs_inputs, hcheck]
  cases (checkAccess dir s.cfg s.inputs).exception <;> rfl

/-- An access does the same under two inputs that give the same check and the same condition. -/
theorem exec_setInputs (i : Instr) (s : State) (j : Inputs)
    (hcheck : checkAccess i.dir s.cfg j = checkAccess i.dir s.cfg s.inputs)
    (hcond : condPasses i.cond j = condPasses i.cond s.inputs) :
    exec i (s.setInputs j) = mapNext (·.setInputs j) (exec i s) := by
  rw [exec_eq_access, exec_eq_access]
  unfold access
  rw [State.setInputs_cfg, State.setInputs_inputs, hcond]
  split_ifs
  · rfl
  · rfl
  · cases regOf i.iset i.rt with
    | none => rfl
    | some t => exact congrArg Host.Outcome.next (performAccess_setInputs i.dir t s j hcheck)
  · cases regOf i.iset i.rt with
    | none => rfl
    | some t => exact congrArg Host.Outcome.next (skipAccess_setInputs i.dir s j hcheck)

/-- Settles O16: neither the check nor the condition reads TTBCR.EAE. -/
theorem accessIgnoresTableFormat : Obligations.AccessIgnoresTableFormat := by
  intro i s b
  refine (exec_setInputs i s { s.inputs with ttbcrEae := b } rfl rfl).trans ?_
  cases h : exec i s with
  | next s' =>
    obtain ⟨-, hinputs, -⟩ := exec_next_keeps i s s' h
    simp only [mapNext, State.setInputs, hinputs]
  | refused r => rfl
  | fault f => rfl

end Sys2Proof.Machine
end

section
/-! The two round trips of the words (30_encoding.md R75, R76), from what the decoder answers on the word of a DFSR access. -/

namespace Sys2Proof

/-! The parts of the instruction of one row. -/

@[simp] theorem Instr.iset_ofParts (set : ISet) (dir : Dir) (top rt : BitVec 4) :
    (Instr.ofParts set dir top rt).iset = set := by
  cases set <;> cases dir <;> rfl

@[simp] theorem Instr.dir_ofParts (set : ISet) (dir : Dir) (top rt : BitVec 4) :
    (Instr.ofParts set dir top rt).dir = dir := by
  cases set <;> cases dir <;> rfl

@[simp] theorem Instr.rt_ofParts (set : ISet) (dir : Dir) (top rt : BitVec 4) :
    (Instr.ofParts set dir top rt).rt = rt := by
  cases set <;> cases dir <;> rfl

@[simp] theorem Instr.cond_ofParts_a32 (dir : Dir) (top rt : BitVec 4) :
    (Instr.ofParts .a32 dir top rt).cond = some top := by
  cases dir <;> rfl

@[simp] theorem Instr.cond_ofParts_t32 (dir : Dir) (top rt : BitVec 4) :
    (Instr.ofParts .t32 dir top rt).cond = none := by
  cases dir <;> rfl

theorem Instr.wf_ofParts (set : ISet) (dir : Dir) (top rt : BitVec 4) (hcond : set = .a32 → top ≠ 15#4)
    (hrt : rtAdmitted set rt = true) : (Instr.ofParts set dir top rt).wf = true := by
  refine (Machine.Instr.wf_iff _).2 ⟨?_, by simpa using hrt⟩
  cases set with
  | a32 => simpa [Machine.condFieldOk, condAdmitted] using hcond
  | t32 => simp [Machine.condFieldOk]

/-- The word of the instruction of one row; in T32 the top field is fixed. -/
theorem encode_ofParts (set : ISet) (dir : Dir) (top rt : BitVec 4) (htop : set = .t32 → top = 14#4) :
    encode (Instr.ofParts set dir top rt) = accessWord top (dfsrAccess dir rt) := by
  cases set with
  | a32 => simp [encode_eq_accessWord]
  | t32 => simp [encode_eq_accessWord, htop]

/-- The top field of a well-formed instruction's word is one its set admits. -/
theorem Instr.top_of_wf (i : Instr) (h : i.wf = true) :
    (i.iset = .a32 → i.cond.getD 14#4 ≠ 15#4) ∧ (i.iset = .t32 → i.cond.getD 14#4 = 14#4) := by
  obtain ⟨hcond, -⟩ := (Machine.Instr.wf_iff i).1 h
  cases i with
  | mrcA32 cond rt | mcrA32 cond rt =>
    exact ⟨fun _ => by simpa [Instr.cond, Machine.condFieldOk, condAdmitted] using hcond, nofun⟩
  | mrcT32 rt | mcrT32 rt => exact ⟨nofun, fun _ => rfl⟩

/-- On the word of a DFSR access only the register number is left to check. -/
theorem decode_dfsrWord (set : ISet) (top : BitVec 4) (dir : Dir) (rt : BitVec 4) (hcond : set = .a32 → top ≠ 15#4)
    (htop : set = .t32 → top = 14#4) :
    decode set (accessWord top (dfsrAccess dir rt)) =
      if rtAdmitted set rt = false then .error (.rtNotAdmitted rt) else .ok (Instr.ofParts set dir top rt) := by
  have hdfsr : (dfsrAccess dir rt).isDfsr = true := (isDfsr_iff _).2 rfl
  exact (decode_accessWord set top _ hcond htop).trans (if_neg (by simp [hdfsr]))

theorem decode_dfsrWord_of_admitted (set : ISet) (top : BitVec 4) (dir : Dir) (rt : BitVec 4)
    (hcond : set = .a32 → top ≠ 15#4) (htop : set = .t32 → top = 14#4) (hrt : rtAdmitted set rt = true) :
    decode set (accessWord top (dfsrAccess dir rt)) = .ok (Instr.ofParts set dir top rt) := by
  simp [decode_dfsrWord set top dir rt hcond htop, hrt]

/-- Settles O19: the word of a well-formed instruction passes each check of the decoder. -/
theorem decodeOfEncode : Obligations.DecodeOfEncode := by
  intro i hwf
  obtain ⟨-, hrt⟩ := (Machine.Instr.wf_iff i).1 hwf
  obtain ⟨hcond, htop⟩ := i.top_of_wf hwf
  rw [encode_eq_accessWord, decode_dfsrWord_of_admitted _ _ _ _ hcond htop hrt, ofParts_self]

/-- Settles O20: the checks of the decoder fix every bit of the word but those of the condition, the direction and `Rt`. -/
theorem encodeOfDecode : Obligations.EncodeOfDecode := by
  intro set w i h
  obtain ⟨hcond, htop, h24, h4, hdfsr, hrt, rfl⟩ := (decode_eq_ok_iff set w i).1 h
  refine ⟨Instr.wf_ofParts set _ _ _ hcond hrt, Instr.iset_ofParts _ _ _ _, ?_⟩
  rw [encode_ofParts set _ _ _ htop, ← (isDfsr_iff _).1 hdfsr]
  exact accessWord_fields w h24 h4

end Sys2Proof
end

section
/-! The words by match and mask (30_encoding.md R77): the mask leaves out the `Rt` field and, in A32, the condition field. -/

namespace Sys2Proof

open Sys2Proof.Laws.TableRow

/-- A word is its two variable fields and its bits under the A32 mask. -/
theorem eq_of_masked_of_fields (v w : Word) (hmask : v &&& mask .a32 = w &&& mask .a32)
    (htop : v.extractLsb' 28 4 = w.extractLsb' 28 4) (hrt : v.extractLsb' 12 4 = w.extractLsb' 12 4) : v = w := by
  have field : ∀ base k, v.extractLsb' base 4 = w.extractLsb' base 4 → base ≤ k → k < base + 4 →
      v.getLsbD k = w.getLsbD k := by
    intro base k h hle hlt
    have hbit := congrArg (·.getLsbD (k - base)) h
    simpa [show k - base < 4 by omega, show base + (k - base) = k by omega] using hbit
  have masked : ∀ k : Fin 32, ¬ 28 ≤ k.val → ¬ (12 ≤ k.val ∧ k.val < 16) → (mask .a32).getLsbD k = true := by decide
  refine BitVec.eq_of_getLsbD_eq fun k hk => ?_
  by_cases h28 : 28 ≤ k
  · exact field 28 k htop h28 hk
  by_cases h12 : 12 ≤ k ∧ k < 16
  · exact field 12 k hrt h12.1 h12.2
  · have hbit := congrArg (·.getLsbD k) hmask
    simpa only [BitVec.getLsbD_and, masked ⟨k, hk⟩ h28 h12, Bool.and_true] using hbit

/-- A word of a row has the bits of the row under the A32 mask, and a T32 word the top field 0b1110. -/
theorem masked_a32_of_masked (set : ISet) (w : Word) (dir : Dir) (h : w &&& mask set = matchValue set dir) :
    w &&& mask .a32 = matchValue .a32 dir ∧ (set = .t32 → w.extractLsb' 28 4 = 14#4) := by
  cases set with
  | a32 => exact ⟨h, nofun⟩
  | t32 =>
    constructor
    · calc w &&& mask .a32 = w &&& mask .t32 &&& mask .a32 := by rw [BitVec.and_assoc]; rfl
        _ = matchValue .t32 dir &&& mask .a32 := by rw [h]
        _ = matchValue .a32 dir := by cases dir <;> rfl
    · intro _
      calc w.extractLsb' 28 4 = (w &&& mask .t32).extractLsb' 28 4 := by
            rw [BitVec.extractLsb'_and]; exact BitVec.and_allOnes.symm
        _ = (matchValue .t32 dir).extractLsb' 28 4 := by rw [h]
        _ = 14#4 := by cases dir <;> rfl

/-- A word of a row is the word of a DFSR access with its own top field and `Rt`. -/
theorem eq_dfsrWord_of_masked (set : ISet) (w : Word) (dir : Dir) (h : w &&& mask set = matchValue set dir) :
    w = accessWord (w.extractLsb' 28 4) (dfsrAccess dir (w.extractLsb' 12 4)) := by
  obtain ⟨ha32, -⟩ := masked_a32_of_masked set w dir h
  obtain ⟨htop, -, -⟩ := extractLsb'_accessWord (w.extractLsb' 28 4) (dfsrAccess dir (w.extractLsb' 12 4))
  have hfields := fields_accessWord (w.extractLsb' 28 4) (dfsrAccess dir (w.extractLsb' 12 4))
  refine eq_of_masked_of_fields _ _ ?_ htop.symm (congrArg Access.rt hfields).symm
  rw [ha32, masked_accessWord .a32 _ _ _ nofun]

/-- The word of an instruction lies in the row of its set and direction. -/
theorem encode_masked (i : Instr) : encode i &&& mask i.iset = matchValue i.iset i.dir := by
  cases i with
  | mrcA32 cond rt => exact mrcA32 cond rt
  | mcrA32 cond rt => exact mcrA32 cond rt
  | mrcT32 rt => exact mrcT32 rt
  | mcrT32 rt => exact mcrT32 rt

/-- The words read as one row: those of its match and mask, less the excluded conditions and register numbers. -/
theorem decodes_to_row_iff (set : ISet) (dir : Dir) (w : Word) :
    (∃ i : Instr, decode set w = .ok i ∧ i.dir = dir) ↔
      w &&& mask set = matchValue set dir ∧ (set = .a32 → w.extractLsb' 28 4 ≠ 15#4) ∧
        rtAdmitted set (w.extractLsb' 12 4) = true := by
  constructor
  · rintro ⟨i, h, rfl⟩
    obtain ⟨-, rfl, hw⟩ := encodeOfDecode set w i h
    obtain ⟨hcond, -, -, -, -, hrt, -⟩ := (decode_eq_ok_iff i.iset w i).1 h
    exact ⟨hw ▸ encode_masked i, hcond, hrt⟩
  · rintro ⟨hmask, hcond, hrt⟩
    obtain ⟨-, htop⟩ := masked_a32_of_masked set w dir hmask
    refine ⟨Instr.ofParts set dir (w.extractLsb' 28 4) (w.extractLsb' 12 4), ?_, Instr.dir_ofParts _ _ _ _⟩
    have h := decode_dfsrWord_of_admitted set _ dir _ hcond htop hrt
    rwa [← eq_dfsrWord_of_masked set w dir hmask] at h

theorem rtAdmitted_a32_iff (rt : BitVec 4) : rtAdmitted .a32 rt = true ↔ rt ≠ 15#4 := by
  simp [rtAdmitted]

theorem rtAdmitted_t32_iff (rt : BitVec 4) : rtAdmitted .t32 rt = true ↔ rt ≠ 15#4 ∧ rt ≠ 13#4 := by
  simp [rtAdmitted]

/-- The row of one direction in A32, with the exclusions written out. -/
theorem decodes_to_a32_row_iff (dir : Dir) (w : Word) :
    (∃ i : Instr, decode .a32 w = .ok i ∧ i.dir = dir) ↔
      w &&& mask .a32 = matchValue .a32 dir ∧ w.extractLsb' 28 4 ≠ 15#4 ∧ w.extractLsb' 12 4 ≠ 15#4 := by
  simp only [decodes_to_row_iff, rtAdmitted_a32_iff, forall_const]

/-- The row of one direction in T32, with the exclusions written out. -/
theorem decodes_to_t32_row_iff (dir : Dir) (w : Word) :
    (∃ i : Instr, decode .t32 w = .ok i ∧ i.dir = dir) ↔
      w &&& mask .t32 = matchValue .t32 dir ∧ w.extractLsb' 12 4 ≠ 15#4 ∧ w.extractLsb' 12 4 ≠ 13#4 := by
  simp only [decodes_to_row_iff, rtAdmitted_t32_iff, reduceCtorEq, false_implies, true_and]

/-- Settles O21: one statement per set, at each direction. -/
theorem wordsAreTableRows : Obligations.WordsAreTableRows :=
  fun w => ⟨decodes_to_a32_row_iff .read w, decodes_to_a32_row_iff .write w, decodes_to_t32_row_iff .read w,
    decodes_to_t32_row_iff .write w⟩

end Sys2Proof
end

section
/-! The five fields, the T32 word read as A32, the assembler line and the sample words (30_encoding.md R72, R73, R76). -/

namespace Sys2Proof

theorem isDfsr_iff_fields (a : Access) :
    a.isDfsr = true ↔
      a.coproc = 0b1111#4 ∧ a.opc1 = 0b000#3 ∧ a.crn = 0b0101#4 ∧ a.crm = 0b0000#4 ∧ a.opc2 = 0b000#3 := by
  simp [Access.isDfsr, and_assoc]

/-- Settles O22: on an access word the decoder asks for the five fields, then for `Rt`. -/
theorem fiveFieldsSelectDfsr : Obligations.FiveFieldsSelectDfsr := by
  intro top a htop hrt
  rw [← isDfsr_iff_fields, decode_accessWord .a32 top a (fun _ => htop) nofun]
  constructor
  · intro hdfsr
    refine ⟨Instr.ofParts .a32 a.dir top a.rt, ?_, by simp⟩
    simp [hdfsr, (rtAdmitted_a32_iff a.rt).2 hrt]
  · intro hother
    exact if_pos (Bool.eq_false_of_not_eq_true hother)

theorem rtAdmitted_a32_of_t32 {rt : BitVec 4} (h : rtAdmitted .t32 rt = true) : rtAdmitted .a32 rt = true :=
  (rtAdmitted_a32_iff rt).2 ((rtAdmitted_t32_iff rt).1 h).1

/-- Settles O24: a T32 word passes the checks of A32, which ask less of the top field and of `Rt`. -/
theorem t32WordIsA32Always : Obligations.T32WordIsA32Always := by
  intro hw1 hw2 i h
  obtain ⟨-, htop, h24, h4, hdfsr, hrt, rfl⟩ := (decode_eq_ok_iff .t32 (hw1 ++ hw2) i).1 h
  refine (decode_eq_ok_iff .a32 (hw1 ++ hw2) _).2
    ⟨fun _ => ?_, nofun, h24, h4, hdfsr, rtAdmitted_a32_of_t32 hrt, ?_⟩
  · rw [htop rfl]
    decide
  · rw [htop rfl, Instr.dir_ofParts, Instr.rt_ofParts]

/-- The access of a line for DFSR, with `<opc2>` written or left out. -/
theorem AsmLine.access_eq_dfsrAccess (l : AsmLine) (hcoproc : l.coproc = 15#4) (hopc1 : l.opc1 = 0#3)
    (hcrn : l.crn = 5#4) (hcrm : l.crm = 0#4) (hopc2 : l.opc2 = none ∨ l.opc2 = some 0#3) :
    l.access = dfsrAccess l.dir l.rt := by
  have hdefault : l.opc2.getD 0#3 = 0#3 := by
    obtain h | h := hopc2 <;> rw [h] <;> rfl
  simp [AsmLine.access, dfsrAccess, hcoproc, hopc1, hcrn, hcrm, hdefault]

/-- A condition left out means always, so the condition of a line is one when it does not name 0b1111. -/
theorem condOfLine_ne (c : Option (BitVec 4)) (h : c ≠ some 15#4) : c.getD 14#4 ≠ 15#4 := by
  cases c with
  | none => decide
  | some c => simpa using h

/-- Settles O26: both words of the line are words of the DFSR access it names. -/
theorem assemblerLineNamesInstruction : Obligations.AssemblerLineNamesInstruction := by
  intro l hcoproc hopc1 hcrn hcrm hopc2 hc h15
  have haccess := l.access_eq_dfsrAccess hcoproc hopc1 hcrn hcrm hopc2
  constructor
  · rw [AsmLine.wordA32, haccess]
    exact decode_dfsrWord_of_admitted .a32 _ _ _ (fun _ => condOfLine_ne l.c hc) nofun
      ((rtAdmitted_a32_iff l.rt).2 h15)
  · intro h13
    rw [AsmLine.wordT32, haccess]
    exact decode_dfsrWord_of_admitted .t32 _ _ _ nofun (fun _ => rfl) ((rtAdmitted_t32_iff l.rt).2 ⟨h15, h13⟩)

/-- Settles O23: each sample word is the word of the instruction beside it. -/
theorem sampleWordsDecode : Obligations.SampleWordsDecode :=
  ⟨decodeOfEncode (.mrcA32 14#4 3#4) rfl, decodeOfEncode (.mcrA32 14#4 12#4) rfl, decodeOfEncode (.mrcA32 1#4 2#4) rfl,
    decodeOfEncode (.mcrA32 0#4 5#4) rfl, decodeOfEncode (.mrcT32 14#4) rfl, decodeOfEncode (.mcrT32 14#4) rfl⟩

end Sys2Proof
end

section
/-! What `exec` answers off the ready path: a failed condition, an unadmitted register; and the step of a decoded word
(30_encoding.md R76, R79, R80). -/

namespace Sys2Proof.Machine

open Sys2Proof.Claims

/-- An access whose condition fails is the skip, whichever register it names (30_encoding.md R80). -/
theorem exec_of_cond_failed (i : Instr) (s : State) (hp : s.cfg.haveAnyAArch32 = true) (hw : i.wf = true)
    (hc : condPasses i.cond s.inputs = false) : exec i s = .next (skipAccess i.dir s) := by
  obtain ⟨-, hrt⟩ := (Instr.wf_iff i).1 hw
  obtain ⟨t, -, ht⟩ := regOf_of_admitted i.iset i.rt hrt
  simp [exec_of_wf i s t hp hw ht, hc]

/-- The outcome of a skip: no exception, or the one of the check (30_encoding.md R80, D4). -/
theorem skipAccess_response (dir : Dir) (s : State) :
    (skipAccess dir s).response = some .completed ∨
      ∃ r : Response, (checkAccess dir s.cfg s.inputs).exception = some r ∧ (skipAccess dir s).response = some r := by
  unfold skipAccess
  cases (checkAccess dir s.cfg s.inputs).exception with
  | none => exact .inl rfl
  | some r =>
    cases Config.condFailRaises s.draws
    · exact .inl rfl
    · exact .inr ⟨r, rfl, rfl⟩

/-- Settles O10: the skip writes the response and the count of draws only. -/
theorem failedConditionMovesNothing : Obligations.FailedConditionMovesNothing := by
  intro i s hp hw hc
  refine ⟨skipAccess i.dir s, exec_of_cond_failed i s hp hw hc, skipAccess_frame i.dir s, ?_⟩
  obtain hdone | ⟨r, hr, hresp⟩ := skipAccess_response i.dir s
  · exact .inl hdone
  rw [hresp]
  cases hcheck : checkAccess i.dir s.cfg s.inputs with
  | undefined =>
    rw [hcheck] at hr
    exact .inr (.inl ⟨rfl, hr.symm⟩)
  | trap aarch64 =>
    rw [hcheck] at hr
    exact .inr (.inr ⟨aarch64, rfl, hr.symm⟩)
  | cell c =>
    rw [hcheck] at hr
    cases hr

/-- A register number that is not admitted is refused, once the register is present and the condition field is one. -/
theorem exec_of_rt_not_admitted (i : Instr) (s : State) (hp : s.cfg.haveAnyAArch32 = true)
    (hc : condFieldOk i.cond = true) (hrt : rtAdmitted i.iset i.rt = false) :
    exec i s = .refused (.rtNotAdmitted i.rt) := by
  simp [exec_eq_access, access, hp, hc, regOf, hrt]

/-- Settles O25: the meanings check `Rt` before the condition is evaluated, the decoder after the five fields. -/
theorem unadmittedRegisterIsRefused : Obligations.UnadmittedRegisterIsRefused := by
  intro s cond hp hcond
  have hfield : condFieldOk (some cond) = true := by simpa [condFieldOk, condAdmitted] using hcond
  refine ⟨exec_of_rt_not_admitted _ s hp hfield rfl, exec_of_rt_not_admitted _ s hp hfield rfl, fun rt hrt => ?_,
    fun dir => (decode_dfsrWord .a32 cond dir 15#4 (fun _ => hcond) nofun).trans (if_pos rfl)⟩
  have ht32 : rtAdmitted .t32 rt = false := by
    obtain rfl | rfl := hrt <;> rfl
  exact ⟨exec_of_rt_not_admitted (.mrcT32 rt) s hp rfl ht32, exec_of_rt_not_admitted (.mcrT32 rt) s hp rfl ht32⟩

theorem fetch_of_decode (w : Word) (s : State) (i : Instr) (h : decode s.inputs.iset w = .ok i) :
    fetch w s = exec i s := by
  simp [fetch, h]

/-- Settles O48: both sides are refused where the register is absent; elsewhere the step performs the fetch. -/
theorem stepRunsDecodedInstruction : Obligations.StepRunsDecodedInstruction := by
  intro s w rest i he hdec
  cases hp : s.cfg.haveAnyAArch32 with
  | false => exact (step_absent s hp).trans (exec_absent i (s.setEvents rest) hp).symm
  | true =>
    rw [step_cons s _ rest hp he]
    exact fetch_of_decode w (s.setEvents rest) i hdec

end Sys2Proof.Machine
end

section
/-! A ready access is its transfer or its exception, and the check is the access pseudocode, arm by arm
(40_sysreg_access.md R91, R92, R96). -/

namespace Sys2Proof.Machine

open Sys2Proof.Claims

/-- An access whose condition passes performs, with the register its number names. -/
theorem exec_of_ready {i : Instr} {s : State} {t : Fin 15} (hready : Ready i s) (ht : t.val = i.rt.toNat) :
    exec i s = .next (performAccess i.dir t s) := by
  obtain ⟨hp, hw, hc⟩ := hready
  rw [exec_of_wf i s t hp hw ht, if_pos hc]

/-- A ready read whose check gives a cell is the read transfer (40_sysreg_access.md R94). -/
theorem exec_read {i : Instr} {s : State} {t : Fin 15} {c : CellName} (hdir : i.dir = .read) (hready : Ready i s)
    (ht : t.val = i.rt.toNat) (hcheck : checkAccess .read s.cfg s.inputs = .cell c) :
    exec i s = .next (readInto c t s) := by
  rw [exec_of_ready hready ht, hdir, performAccess_cell .read t s c hcheck]
  rfl

/-- A ready write whose check gives a cell is the write transfer (40_sysreg_access.md R95). -/
theorem exec_write {i : Instr} {s : State} {t : Fin 15} {c : CellName} (hdir : i.dir = .write) (hready : Ready i s)
    (ht : t.val = i.rt.toNat) (hcheck : checkAccess .write s.cfg s.inputs = .cell c) :
    exec i s = .next (writeFrom c t s) := by
  rw [exec_of_ready hready ht, hdir, performAccess_cell .write t s c hcheck]
  rfl

/-- The transcribed pseudocode of each direction. -/
def pseudocode : Dir → Bool → Inputs → Arm
  | .read => readPseudocode
  | .write => writePseudocode

/-- The check result an arm of the pseudocode stands for. -/
def checkOfArm : Arm → CheckResult
  | .undefined => .undefined
  | .aarch64Trap => .trap true
  | .hypTrap => .trap false
  | .cell c => .cell c

@[simp] theorem checkOfArm_undefined : checkOfArm .undefined = .undefined := rfl
@[simp] theorem checkOfArm_aarch64Trap : checkOfArm .aarch64Trap = .trap true := rfl
@[simp] theorem checkOfArm_hypTrap : checkOfArm .hypTrap = .trap false := rfl
@[simp] theorem checkOfArm_cell (c : CellName) : checkOfArm (.cell c) = .cell c := rfl

/-- The last choice of the arms below EL3 is the banked copy or the one cell. -/
theorem cellBelowEl3_eq_ite (cfg : Config) (inputs : Inputs) :
    cellBelowEl3 cfg inputs = if cfg.haveEL3 = true ∧ inputs.el3AArch32 = true then .dfsrNS else .dfsr := by
  simp [cellBelowEl3, banked]

/-- `CheckAccess` selects the arm of the pseudocode of its direction: level by level they ask the same questions in the
same order, and the directions differ in `TRVM` and `TVM`. -/
theorem checkAccess_eq_checkOfArm (dir : Dir) (cfg : Config) (inputs : Inputs) :
    checkAccess dir cfg inputs = checkOfArm (pseudocode dir cfg.haveEL3 inputs) := by
  cases hel : inputs.el with
  | el0 => cases dir <;> simp [checkAccess, pseudocode, readPseudocode, writePseudocode, hel]
  | el1 =>
    cases dir <;>
      simp [checkAccess, pseudocode, readPseudocode, writePseudocode, hel, cellBelowEl3_eq_ite, hcrEl2Txvm, hcrTxvm,
        and_assoc, apply_ite checkOfArm, apply_ite CheckResult.cell]
  | el2 =>
    cases dir <;>
      simp [checkAccess, pseudocode, readPseudocode, writePseudocode, hel, cellBelowEl3_eq_ite, apply_ite checkOfArm,
        apply_ite CheckResult.cell]
  | el3 =>
    cases dir <;> cases hns : inputs.scrNS <;>
      simp [checkAccess, pseudocode, readPseudocode, writePseudocode, hel, hns]

/-- An access whose condition passed does what the arm of its check says. -/
theorem performAccess_eq_afterArm (dir : Dir) (t : Fin 15) (s : State) :
    performAccess dir t s = afterArm s (fun c => transfer dir c t s) (pseudocode dir s.cfg.haveEL3 s.inputs) := by
  unfold performAccess
  rw [checkAccess_eq_checkOfArm]
  cases pseudocode dir s.cfg.haveEL3 s.inputs <;> rfl

/-- Settles O6: the check selects the arm, and its cell is read into `x[t]`. -/
theorem readFollowsPseudocode : Obligations.ReadFollowsPseudocode := by
  intro i s t hdir hready ht
  rw [exec_of_ready hready ht, hdir, performAccess_eq_afterArm]
  rfl

/-- Settles O7: the check selects the arm, and its cell takes `Stored(x[t])`. -/
theorem writeFollowsPseudocode : Obligations.WriteFollowsPseudocode := by
  intro i s t hdir hready ht
  rw [exec_of_ready hready ht, hdir, performAccess_eq_afterArm]
  rfl

end Sys2Proof.Machine
end

section
/-! The two transfers bit by bit, with their frames (40_sysreg_access.md R94, R95, R97). -/

namespace Sys2Proof.Machine

open Sys2Proof.Claims

theorem reg_readInto (c : CellName) (t : Fin 15) (s : State) :
    (readInto c t s).reg t = (s.cell c).read (Config.draw s.draws) := by
  obtain ⟨hreg, -⟩ := readInto_frame c t s
  exact hreg

theorem cell_writeFrom (c : CellName) (t : Fin 15) (s : State) :
    (writeFrom c t s).cell c = KBits.known (stored s.cfg (s.reg t)) := by
  obtain ⟨hcell, -⟩ := writeFrom_frame c t s
  exact hcell

theorem onlyRegister_readInto (c : CellName) (t : Fin 15) (s : State) : OnlyRegister t s (readInto c t s) := by
  obtain ⟨-, hframe⟩ := readInto_frame c t s
  exact hframe

theorem onlyCell_writeFrom (c : CellName) (t : Fin 15) (s : State) : OnlyCell c s (writeFrom c t s) := by
  obtain ⟨-, hframe⟩ := writeFrom_frame c t s
  exact hframe

/-- Settles O8: the access is `readInto`, and a read takes each bit from the cell or from the draw. -/
theorem mrcReadsSelectedCell : Obligations.MrcReadsSelectedCell := by
  intro i s t c hdir hready ht hcheck
  refine ⟨readInto c t s, exec_read hdir hready ht hcheck, rfl, rfl, fun k _ => ?_, onlyRegister_readInto c t s⟩
  rw [reg_readInto]
  exact KBits.getLsbD_read _ _ k

/-- Under `hardwired` a reserved bit is stored as 0 (10_state.md R20). -/
theorem getLsbD_stored_of_reserved (cfg : Config) (v : Word) (k : Nat) (hk : k < 32) (hpol : cfg.res0Policy = .hardwired)
    (hr : ReservedBit cfg k) : (stored cfg v).getLsbD k = false := by
  rw [getLsbD_stored cfg v k hk, (reservedBit_iff cfg k hk).1 hr, hpol]
  simp

/-- Every other bit is stored as it is. -/
theorem getLsbD_stored_of_kept (cfg : Config) (v : Word) (k : Nat) (hk : k < 32)
    (h : cfg.res0Policy = .storage ∨ ¬ ReservedBit cfg k) : (stored cfg v).getLsbD k = v.getLsbD k := by
  rw [getLsbD_stored cfg v k hk]
  obtain hpol | hr := h
  · simp [hpol]
  · rw [reservedBit_iff cfg k hk, Bool.not_eq_true] at hr
    simp [hr]

/-- Settles O9: the access is `writeFrom`, and the cell holds the known bits of `Stored(x[t])`. -/
theorem mcrStoresRegister : Obligations.McrStoresRegister := by
  intro i s t c hdir hready ht hcheck
  refine ⟨writeFrom c t s, exec_write hdir hready ht hcheck, rfl, fun k hk => ?_, onlyCell_writeFrom c t s⟩
  rw [cell_writeFrom, KBits.bit_known]
  exact ⟨fun hpol hr => congrArg some (getLsbD_stored_of_reserved s.cfg _ k hk hpol hr),
    fun h => congrArg some (getLsbD_stored_of_kept s.cfg _ k hk h)⟩

/-- Settles O12: the write leaves every bit of the cell known, so the read takes none from the draw. -/
theorem writeThenReadReturnsStored : Obligations.WriteThenReadReturnsStored := by
  intro w r s s1 s2 s3 c tw tr hwdir hwready htw hwcheck hw hkept hrdir hrready htr hrcheck hr
  cases (exec_write hwdir hwready htw hwcheck).symm.trans hw
  cases (exec_read hrdir hrready htr hrcheck).symm.trans hr
  rw [reg_readInto, hkept, cell_writeFrom, KBits.read_known]

/-- Settles O18: the invariant has each reserved bit of the cell known to be 0, and the read returns known bits. -/
theorem hardwiredBitsReadZero : Obligations.HardwiredBitsReadZero := by
  intro i s t c hinv hpol hdir hready ht hcheck
  refine ⟨readInto c t s, exec_read hdir hready ht hcheck, fun k hr => ?_⟩
  rw [reg_readInto]
  obtain ⟨-, hzero⟩ := (cellInv_iff s.cfg (s.cell c)).1 (hinv c)
  by_cases hk : k < 32
  · exact getLsbD_read_of_bit _ _ k false (hzero hpol k hk hr)
  · exact BitVec.getLsbD_of_ge _ k (Nat.le_of_not_lt hk)

end Sys2Proof.Machine
end

section
/-! Which copy an access may change, and which controls the check reads without EL2 (40_sysreg_access.md R98, R99). -/

namespace Sys2Proof.Machine

/-- An access leaves every cell as it was, or every cell but the one its check gives. -/
theorem exec_next_cells (i : Instr) (s s' : State) (h : exec i s = .next s') :
    (∀ d, s'.cell d = s.cell d) ∨
      ∃ c : CellName, checkAccess i.dir s.cfg s.inputs = .cell c ∧ ∀ d, d ≠ c → s'.cell d = s.cell d := by
  obtain ⟨-, -, ⟨-, t, -, rfl⟩ | ⟨-, rfl⟩⟩ := exec_next_cases i s s' h
  · obtain ⟨r, -, hperf, -⟩ | ⟨c, hcheck, hperf⟩ := performAccess_cases i.dir t s
    · rw [hperf]
      exact .inl (State.cell_respond s r)
    · rw [hperf]
      cases hdir : i.dir with
      | read =>
        obtain ⟨-, -, hcells, -⟩ := readInto_frame c t s
        exact .inl hcells
      | write =>
        obtain ⟨-, hothers, -⟩ := writeFrom_frame c t s
        exact .inr ⟨c, hdir ▸ hcheck, hothers⟩
  · obtain ⟨hcells, -⟩ := skipAccess_frame i.dir s
    exact .inl hcells

/-- At EL3 the check reads `SCR.NS` only. -/
theorem checkAccess_el3 (dir : Dir) (cfg : Config) (inputs : Inputs) (h : inputs.el = .el3) :
    checkAccess dir cfg inputs = .cell (if inputs.scrNS then .dfsrNS else .dfsrS) := by
  simp [checkAccess, h]

theorem cellBelowEl3_ne_dfsrS (cfg : Config) (inputs : Inputs) : cellBelowEl3 cfg inputs ≠ .dfsrS := by
  unfold cellBelowEl3
  cases banked cfg inputs <;> simp

/-- 10_state.md R11: the Secure copy is reached from EL3 with `SCR.NS` 0, and from nowhere else. -/
theorem checkAccess_eq_dfsrS_iff (dir : Dir) (cfg : Config) (inputs : Inputs) :
    checkAccess dir cfg inputs = .cell .dfsrS ↔ inputs.el = .el3 ∧ inputs.scrNS = false := by
  constructor
  · intro h
    obtain ⟨-, hc⟩ | ⟨hel, -⟩ := checkAccess_cell_cases dir cfg inputs _ h
    · exact absurd hc.symm (cellBelowEl3_ne_dfsrS cfg inputs)
    · rw [checkAccess_el3 dir cfg inputs hel] at h
      exact ⟨hel, by simpa using h⟩
  · rintro ⟨hel, hns⟩
    simp [checkAccess_el3 dir cfg inputs hel, hns]

/-- Settles O13: only the checked cell can change, and the check gives `DFSR_S` only from EL3 with `SCR.NS` 0. -/
theorem copiesAreIndependent : Obligations.CopiesAreIndependent := by
  intro i s s' h
  obtain hcells | ⟨e, hcheck, hothers⟩ := exec_next_cells i s s' h
  · exact ⟨fun c _ _ => .inl (hcells c), fun hne => absurd (hcells .dfsrS) hne⟩
  constructor
  · intro c d hcd
    by_cases hce : c = e
    · exact .inr (hothers d fun hde => hcd (hce.trans hde.symm))
    · exact .inl (hothers c hce)
  · intro hne
    have he : CellName.dfsrS = e := by
      by_contra hse
      exact hne (hothers .dfsrS hse)
    subst he
    exact (checkAccess_eq_dfsrS_iff i.dir s.cfg s.inputs).1 hcheck

/-- The check as it is where no control of EL2 acts: by the Exception level, the cell below EL3 and `SCR.NS`. -/
def checkWithoutEl2 (el : EL) (below : CellName) (ns : Bool) : CheckResult :=
  match el with
  | .el0 => .undefined
  | .el1 => .cell below
  | .el2 => .cell below
  | .el3 => .cell (if ns then .dfsrNS else .dfsrS)

theorem checkAccess_eq_checkWithoutEl2 (dir : Dir) (cfg : Config) (inputs : Inputs)
    (h : inputs.el = .el2 ∨ inputs.el = .el3 ∨ inputs.el2Enabled = false) :
    checkAccess dir cfg inputs = checkWithoutEl2 inputs.el (cellBelowEl3 cfg inputs) inputs.scrNS := by
  obtain hel | hel | hoff := h
  · simp [checkAccess, checkWithoutEl2, hel]
  · rw [checkAccess_el3 dir cfg inputs hel, hel]
    rfl
  · cases hel : inputs.el <;> simp [checkAccess, checkWithoutEl2, hel, hoff]

theorem checkWithoutEl2_ne_trap (el : EL) (below : CellName) (ns aarch64 : Bool) :
    checkWithoutEl2 el below ns ≠ .trap aarch64 := by
  cases el <;> simp [checkWithoutEl2]

theorem cellBelowEl3_congr (cfg : Config) (i j : Inputs) (h : i.el3AArch32 = j.el3AArch32) :
    cellBelowEl3 cfg i = cellBelowEl3 cfg j := by
  simp [cellBelowEl3, banked, h]

/-- Settles O15: in the three cases the check is `checkWithoutEl2`, which no trap control enters. -/
theorem checkReadsNoControlWithoutEl2 : Obligations.CheckReadsNoControlWithoutEl2 := by
  intro dir cfg i j hel h32 hns hcase
  have hi : i.el = .el2 ∨ i.el = .el3 ∨ i.el2Enabled = false := hcase.imp_right (.imp_right And.left)
  have hj : j.el = .el2 ∨ j.el = .el3 ∨ j.el2Enabled = false := hel ▸ hcase.imp_right (.imp_right And.right)
  rw [checkAccess_eq_checkWithoutEl2 dir cfg i hi, checkAccess_eq_checkWithoutEl2 dir cfg j hj, hel,
    cellBelowEl3_congr cfg i j h32, hns]
  exact ⟨rfl, checkWithoutEl2_ne_trap _ _ _⟩

end Sys2Proof.Machine
end

section
/-! Below EL3 nothing an access, a report or a move does depends on the Secure copy (60_exceptions.md R141). -/

namespace Sys2Proof.Machine

open Sys2Proof.Claims

/-- Agreeing on everything but the Secure copy is being one state with another Secure copy. -/
theorem agreeButSecure_iff (s t : State) : AgreeButSecure s t ↔ ∃ v : KWord, t = s.setCell .dfsrS v := by
  constructor
  · intro h
    exact ⟨t.dfsrS, h.symm⟩
  · rintro ⟨v, rfl⟩
    rfl

/-- An operation keeps the agreement when it does so on a state and the same state with another Secure copy. -/
theorem AgreeButSecure.map {s t : State} (h : AgreeButSecure s t) (f : State → State)
    (hf : ∀ (s : State) (v : KWord), AgreeButSecure (f s) (f (s.setCell .dfsrS v))) : AgreeButSecure (f s) (f t) := by
  obtain ⟨v, rfl⟩ := (agreeButSecure_iff s t).1 h
  exact hf s v

/-- What does not depend on the Secure copy is the same in states that agree on everything else. -/
theorem AgreeButSecure.eq_of_blind {α : Type} {s t : State} (h : AgreeButSecure s t) (f : State → α)
    (hf : ∀ (s : State) (v : KWord), f (s.setCell .dfsrS v) = f s) : f t = f s := by
  obtain ⟨v, rfl⟩ := (agreeButSecure_iff s t).1 h
  exact hf s v

/-! The operations on the state keep the agreement. -/

theorem AgreeButSecure.setCell {s t : State} (h : AgreeButSecure s t) (c : CellName) (w : KWord) :
    AgreeButSecure (s.setCell c w) (t.setCell c w) :=
  h.map (State.setCell · c w) fun _ _ => by cases c <;> rfl

theorem AgreeButSecure.respond {s t : State} (h : AgreeButSecure s t) (r : Response) :
    AgreeButSecure (s.respond r) (t.respond r) :=
  h.map (State.respond · r) fun _ _ => rfl

theorem AgreeButSecure.drawn {s t : State} (h : AgreeButSecure s t) : AgreeButSecure s.drawn t.drawn :=
  h.map State.drawn fun _ _ => rfl

theorem AgreeButSecure.setReg {s t : State} (h : AgreeButSecure s t) (u : Fin 15) (w : Word) :
    AgreeButSecure (s.setReg u w) (t.setReg u w) :=
  h.map (State.setReg · u w) fun _ _ => rfl

theorem AgreeButSecure.setInputs {s t : State} (h : AgreeButSecure s t) (i : Inputs) :
    AgreeButSecure (s.setInputs i) (t.setInputs i) :=
  h.map (State.setInputs · i) fun _ _ => rfl

theorem AgreeButSecure.setEvents {s t : State} (h : AgreeButSecure s t) (es : List Event) :
    AgreeButSecure (s.setEvents es) (t.setEvents es) :=
  h.map (State.setEvents · es) fun _ _ => rfl

/-! What the rules read of a state does not depend on the Secure copy, but for the copy itself. -/

theorem AgreeButSecure.cfg_eq {s t : State} (h : AgreeButSecure s t) : t.cfg = s.cfg :=
  h.eq_of_blind State.cfg fun _ _ => rfl

theorem AgreeButSecure.inputs_eq {s t : State} (h : AgreeButSecure s t) : t.inputs = s.inputs :=
  h.eq_of_blind State.inputs fun _ _ => rfl

theorem AgreeButSecure.events_eq {s t : State} (h : AgreeButSecure s t) : t.events = s.events :=
  h.eq_of_blind State.events fun _ _ => rfl

theorem AgreeButSecure.draws_eq {s t : State} (h : AgreeButSecure s t) : t.draws = s.draws :=
  h.eq_of_blind State.draws fun _ _ => rfl

theorem AgreeButSecure.reg_eq {s t : State} (h : AgreeButSecure s t) (u : Fin 15) : t.reg u = s.reg u :=
  h.eq_of_blind (State.reg · u) fun _ _ => rfl

theorem AgreeButSecure.cell_eq {s t : State} (h : AgreeButSecure s t) {c : CellName} (hc : c ≠ .dfsrS) :
    t.cell c = s.cell c :=
  h.eq_of_blind (State.cell · c) fun s v => State.cell_setCell_of_ne s .dfsrS c v hc

/-! An access below EL3. -/

/-- A transfer with a cell other than the Secure copy keeps the agreement. -/
theorem AgreeButSecure.transfer {s t : State} (h : AgreeButSecure s t) (dir : Dir) {c : CellName} (hc : c ≠ .dfsrS)
    (u : Fin 15) : AgreeButSecure (transfer dir c u s) (transfer dir c u t) := by
  cases dir with
  | read =>
    simp only [Machine.transfer, readInto, h.cell_eq hc, h.draws_eq]
    exact ((h.setReg u _).drawn).respond .completed
  | write =>
    simp only [Machine.transfer, writeFrom, h.cfg_eq, h.reg_eq u]
    exact (h.setCell c _).respond .completed

/-- Below EL3 the check does not give the Secure copy, so what a performed access does is the same on both sides. -/
theorem AgreeButSecure.performAccess {s t : State} (h : AgreeButSecure s t) (hel : s.inputs.el ≠ .el3) (dir : Dir)
    (u : Fin 15) : AgreeButSecure (performAccess dir u s) (performAccess dir u t) := by
  unfold Machine.performAccess
  rw [h.cfg_eq, h.inputs_eq]
  cases hcheck : checkAccess dir s.cfg s.inputs with
  | undefined => exact h.respond _
  | trap aarch64 => exact h.respond _
  | cell c =>
    refine h.transfer dir ?_ u
    rintro rfl
    obtain ⟨hel3, -⟩ := (checkAccess_eq_dfsrS_iff dir s.cfg s.inputs).1 hcheck
    exact hel hel3

theorem AgreeButSecure.skipAccess {s t : State} (h : AgreeButSecure s t) (dir : Dir) :
    AgreeButSecure (skipAccess dir s) (skipAccess dir t) := by
  unfold Machine.skipAccess
  rw [h.cfg_eq, h.inputs_eq, h.draws_eq]
  cases (checkAccess dir s.cfg s.inputs).exception with
  | none => exact h.respond _
  | some r => exact h.drawn.respond _

/-- The guards of an access read the parameters, the inputs and the operands only. -/
theorem AgreeButSecure.exec {s t : State} (h : AgreeButSecure s t) (hel : s.inputs.el ≠ .el3) (i : Instr) :
    AnswersAgreeButSecure (exec i s) (exec i t) := by
  rw [exec_eq_access, exec_eq_access]
  unfold access
  rw [h.cfg_eq, h.inputs_eq]
  split_ifs
  · rfl
  · rfl
  · cases regOf i.iset i.rt with
    | none => rfl
    | some u => exact h.performAccess hel i.dir u
  · cases regOf i.iset i.rt with
    | none => rfl
    | some u => exact h.skipAccess i.dir

/-! The other events. -/

theorem AgreeButSecure.report {s t : State} (h : AgreeButSecure s t) (d : Descriptor) :
    AnswersAgreeButSecure (report d s) (report d t) := by
  unfold Machine.report
  rw [h.cfg_eq, h.inputs_eq]
  cases inadmissible s.cfg s.inputs d with
  | some why => rfl
  | none =>
    cases reportValue s.cfg d with
    | none => rfl
    | some v => exact h.setCell d.cell v

theorem AgreeButSecure.esrWrite {s t : State} (h : AgreeButSecure s t) (v : Word) :
    AnswersAgreeButSecure (esrWrite v s) (esrWrite v t) := by
  unfold Machine.esrWrite
  rw [h.cfg_eq, h.inputs_eq]
  cases banked s.cfg s.inputs with
  | true => exact h
  | false =>
    cases s.cfg.res0Policy with
    | storage => exact h.setCell .dfsr _
    | hardwired => rfl

theorem AgreeButSecure.resetMove {s t : State} (h : AgreeButSecure s t) :
    AgreeButSecure (resetMove s) (resetMove t) := by
  unfold Machine.resetMove
  rw [h.cfg_eq]
  exact ((h.setCell .dfsr _).setCell .dfsrS _).setCell .dfsrNS _

theorem AgreeButSecure.perform {s t : State} (h : AgreeButSecure s t) (hel : s.inputs.el ≠ .el3) (e : Event) :
    AnswersAgreeButSecure (perform e s) (perform e t) := by
  cases e with
  | fetch w =>
    simp only [Machine.perform, fetch, h.inputs_eq]
    cases decode s.inputs.iset w with
    | ok i => exact h.exec hel i
    | error e => rfl
  | report d => exact h.report d
  | esrWrite v => exact h.esrWrite v
  | reset => exact h.resetMove
  | setInputs i => exact h.setInputs i
  | setReg u v => exact h.setReg u v

theorem AgreeButSecure.step {s t : State} (h : AgreeButSecure s t) (hel : s.inputs.el ≠ .el3) :
    AnswersAgreeButSecure (step s) (step t) := by
  unfold Machine.step
  rw [h.cfg_eq, h.events_eq]
  split_ifs
  · rfl
  · cases s.events with
    | nil => exact h
    | cons e rest => exact (h.setEvents rest).perform hel e

/-! Staying below EL3. -/

/-- An event leaves the list of events to come alone. -/
theorem perform_next_events (e : Event) (s s' : State) (h : perform e s = .next s') : s'.events = s.events := by
  obtain ⟨-, i, -, -, he⟩ | ⟨d, v, -, -, rfl⟩ | ⟨v, -, rfl | ⟨-, rfl⟩⟩ | ⟨-, rfl⟩ | ⟨i, -, rfl⟩ | ⟨t, v, -, rfl⟩ :=
    perform_next_cases e s s' h
  · obtain ⟨-, -, hevents⟩ := exec_next_keeps i s s' he
    exact hevents
  · exact State.setCell_events s d.cell v
  all_goals rfl

/-- An event that does not take the PE to EL3 leaves it below EL3. -/
theorem perform_next_below_el3 (e : Event) (s s' : State) (h : perform e s = .next s') (hel : s.inputs.el ≠ .el3)
    (he : e.entersEl3 = false) : s'.inputs.el ≠ .el3 := by
  obtain ⟨-, i, -, -, hx⟩ | ⟨d, v, -, -, rfl⟩ | ⟨v, -, rfl | ⟨-, rfl⟩⟩ | ⟨-, rfl⟩ | ⟨i, rfl, rfl⟩ | ⟨t, v, -, rfl⟩ :=
    perform_next_cases e s s' h
  · obtain ⟨-, hinputs, -⟩ := exec_next_keeps i s s' hx
    rwa [hinputs]
  · rwa [State.setCell_inputs]
  · exact hel
  · exact hel
  · exact hel
  · simpa [Event.entersEl3] using he
  · exact hel

theorem NeverAtEl3.of_step {s s' : State} (h : NeverAtEl3 s) (hstep : step s = .next s') : NeverAtEl3 s' := by
  obtain ⟨hel, hevents⟩ := h
  obtain ⟨-, ⟨-, rfl⟩ | ⟨e, rest, hcons, hp⟩⟩ := step_next_cases s s' hstep
  · exact ⟨hel, hevents⟩
  rw [hcons, List.forall_mem_cons] at hevents
  obtain ⟨he, hrest⟩ := hevents
  refine ⟨perform_next_below_el3 e (s.setEvents rest) s' hp hel he, ?_⟩
  rw [perform_next_events e (s.setEvents rest) s' hp]
  exact hrest

/-- Settles O14, by induction on the number of steps: each step answers alike on both sides and stays below EL3. -/
theorem secureCopyIsNeverObserved : Obligations.SecureCopyIsNeverObserved := by
  intro k
  induction k with
  | zero =>
    intro s t _ h
    exact h
  | succ k ih =>
    intro s t hlow h
    have hanswers := h.step hlow.1
    unfold runSteps
    cases hs : step s <;> cases ht : step t <;> rw [hs, ht] at hanswers
    case next.next s' t' => exact ih s' t' (hlow.of_step hs) hanswers
    case fault.fault => exact hanswers
    case refused.refused => exact hanswers
    all_goals exact hanswers.elim

end Sys2Proof.Machine
end

section
/-! Which steps change a cell (60_exceptions.md R138; D25). -/

namespace Sys2Proof.Machine

/-- Of the accesses only a write whose condition passes changes a cell, and it is the one its check gives. -/
theorem exec_next_cell_changed (i : Instr) (s s' : State) (c : CellName) (h : exec i s = .next s')
    (hne : s'.cell c ≠ s.cell c) :
    i.dir = .write ∧ condPasses i.cond s.inputs = true ∧ checkAccess .write s.cfg s.inputs = .cell c := by
  obtain ⟨-, -, ⟨hcond, t, -, rfl⟩ | ⟨-, rfl⟩⟩ := exec_next_cases i s s' h
  · obtain ⟨r, -, hperf, -⟩ | ⟨d, hcheck, hperf⟩ := performAccess_cases i.dir t s <;> rw [hperf] at hne
    · exact absurd (State.cell_respond s r c) hne
    · cases hdir : i.dir with
      | read =>
        rw [hdir] at hne
        obtain ⟨-, -, hcells, -⟩ := readInto_frame d t s
        exact absurd (hcells c) hne
      | write =>
        rw [hdir] at hne hcheck
        obtain ⟨-, hothers, -⟩ := writeFrom_frame d t s
        obtain rfl : c = d := by
          by_contra hcd
          exact hne (hothers c hcd)
        exact ⟨rfl, hcond, hcheck⟩
  · obtain ⟨hcells, -⟩ := skipAccess_frame i.dir s
    exact absurd (hcells c) hne

/-- A cell that a write of the cell `d` changed is `d`. -/
theorem eq_of_setCell_changed (s : State) (c d : CellName) (v : KWord) (h : (s.setCell d v).cell c ≠ s.cell c) :
    c = d := by
  by_contra hcd
  exact h (State.cell_setCell_of_ne s d c v hcd)

/-- The events that change the cell `c`: its four writers. -/
theorem perform_next_cell_changed (e : Event) (s s' : State) (c : CellName) (h : perform e s = .next s')
    (hne : s'.cell c ≠ s.cell c) :
    (∃ d : Descriptor, e = .report d ∧ d.cell = c) ∨ (∃ v : Word, e = .esrWrite v ∧ c = .dfsr) ∨ e = .reset ∨
      ∃ (w : Word) (i : Instr), e = .fetch w ∧ decode s.inputs.iset w = .ok i ∧ i.dir = .write ∧
        condPasses i.cond s.inputs = true ∧ checkAccess .write s.cfg s.inputs = .cell c := by
  obtain ⟨w, i, rfl, hdec, he⟩ | ⟨d, v, rfl, -, rfl⟩ | ⟨v, rfl, rfl | ⟨-, rfl⟩⟩ | ⟨rfl, rfl⟩ | ⟨i, -, rfl⟩ |
    ⟨t, v, -, rfl⟩ := perform_next_cases e s s' h
  · exact .inr (.inr (.inr ⟨w, i, rfl, hdec, exec_next_cell_changed i s s' c he hne⟩))
  · exact .inl ⟨d, rfl, (eq_of_setCell_changed s c d.cell v hne).symm⟩
  · exact absurd rfl hne
  · exact .inr (.inl ⟨v, rfl, eq_of_setCell_changed s c .dfsr _ hne⟩)
  · exact .inr (.inr (.inl rfl))
  · exact absurd (State.cell_setInputs s i c) hne
  · exact absurd (State.cell_setReg s t v c) hne

/-- Settles O44: an idle step changes nothing, and taking the event off the list changes no cell, input or parameter. -/
theorem cellChangesByItsWritersOnly : Obligations.CellChangesByItsWritersOnly := by
  intro s s' c hstep hne
  obtain ⟨-, ⟨-, rfl⟩ | ⟨e, rest, hevents, hp⟩⟩ := step_next_cases s s' hstep
  · exact absurd rfl hne
  rw [← State.cell_setEvents s rest c] at hne
  refine ⟨rest, ?_⟩
  rw [hevents]
  obtain ⟨d, rfl, hd⟩ | ⟨v, rfl, hc⟩ | rfl | ⟨w, i, rfl, hwrite⟩ := perform_next_cell_changed e _ s' c hp hne
  · exact .inl ⟨d, rfl, hd⟩
  · exact .inr (.inl ⟨v, rfl, hc⟩)
  · exact .inr (.inr (.inl rfl))
  · exact .inr (.inr (.inr ⟨w, i, rfl, hwrite⟩))

end Sys2Proof.Machine
end

section
/-! Undefined, trapped and completed accesses: which Exception level and which control of EL2 decide
(60_exceptions.md R110 to R114, R140). -/

namespace Sys2Proof.Machine

open Sys2Proof.Claims

/-- A control of EL2 acts on an access of this direction, in the view of AArch64 or of AArch32
(60_exceptions.md R114). -/
def ControlActs (aarch64 : Bool) (dir : Dir) (inputs : Inputs) : Prop :=
  if aarch64 then
    inputs.hstrEl2T5 = true ∨ (dir = .read ∧ inputs.hcrEl2Trvm = true) ∨ (dir = .write ∧ inputs.hcrEl2Tvm = true)
  else inputs.hstrT5 = true ∨ (dir = .read ∧ inputs.hcrTrvm = true) ∨ (dir = .write ∧ inputs.hcrTvm = true)

theorem controlActs_aarch64_iff (dir : Dir) (inputs : Inputs) :
    ControlActs true dir inputs ↔ inputs.hstrEl2T5 = true ∨ hcrEl2Txvm dir inputs = true := by
  cases dir <;> simp [ControlActs, hcrEl2Txvm]

theorem controlActs_aarch32_iff (dir : Dir) (inputs : Inputs) :
    ControlActs false dir inputs ↔ inputs.hstrT5 = true ∨ hcrTxvm dir inputs = true := by
  cases dir <;> simp [ControlActs, hcrTxvm]

theorem not_controlActs_aarch64_iff (dir : Dir) (inputs : Inputs) :
    ¬ ControlActs true dir inputs ↔ inputs.hstrEl2T5 = false ∧ (dir = .read → inputs.hcrEl2Trvm = false) ∧
      (dir = .write → inputs.hcrEl2Tvm = false) := by
  simp [ControlActs]

theorem not_controlActs_aarch32_iff (dir : Dir) (inputs : Inputs) :
    ¬ ControlActs false dir inputs ↔ inputs.hstrT5 = false ∧ (dir = .read → inputs.hcrTrvm = false) ∧
      (dir = .write → inputs.hcrTvm = false) := by
  simp [ControlActs]

theorem checkAccess_el0 (dir : Dir) (cfg : Config) (inputs : Inputs) (h : inputs.el = .el0) :
    checkAccess dir cfg inputs = .undefined := by
  simp [checkAccess, h]

theorem checkAccess_el2 (dir : Dir) (cfg : Config) (inputs : Inputs) (h : inputs.el = .el2) :
    checkAccess dir cfg inputs = .cell (cellBelowEl3 cfg inputs) := by
  simp [checkAccess, h]

/-- At EL1 the check traps to an EL2 of the view whose control acts, and else gives the cell below EL3: `T5` and `TxVM`
of one view lead to the same trap, and `ELUsingAArch32(EL2)` chooses the view. -/
theorem checkAccess_el1 (dir : Dir) (cfg : Config) (inputs : Inputs) (h : inputs.el = .el1) :
    (inputs.el2Enabled = true ∧ ControlActs (!inputs.el2AArch32) dir inputs ∧
      checkAccess dir cfg inputs = .trap (!inputs.el2AArch32)) ∨
    (¬ (inputs.el2Enabled = true ∧ ControlActs (!inputs.el2AArch32) dir inputs) ∧
      checkAccess dir cfg inputs = .cell (cellBelowEl3 cfg inputs)) := by
  cases hen : inputs.el2Enabled
  · exact .inr ⟨by simp, by simp [checkAccess, h, hen]⟩
  cases h32 : inputs.el2AArch32
  · rw [Bool.not_false, controlActs_aarch64_iff]
    cases hT5 : inputs.hstrEl2T5 <;> cases hVM : hcrEl2Txvm dir inputs <;> simp [checkAccess, h, hen, h32, hT5, hVM]
  · rw [Bool.not_true, controlActs_aarch32_iff]
    cases hT5 : inputs.hstrT5 <;> cases hVM : hcrTxvm dir inputs <;> simp [checkAccess, h, hen, h32, hT5, hVM]

/-- 60_exceptions.md R114: the check traps exactly when it is made from EL1 and an enabled EL2 has a control that acts. -/
theorem checkAccess_eq_trap_iff (dir : Dir) (cfg : Config) (inputs : Inputs) (aarch64 : Bool) :
    checkAccess dir cfg inputs = .trap aarch64 ↔
      inputs.el = .el1 ∧ inputs.el2Enabled = true ∧ inputs.el2AArch32 = !aarch64 ∧ ControlActs aarch64 dir inputs := by
  cases hel : inputs.el with
  | el0 => simp [checkAccess_el0 dir cfg inputs hel]
  | el1 =>
    obtain ⟨hen, hacts, hcheck⟩ | ⟨hnot, hcheck⟩ := checkAccess_el1 dir cfg inputs hel
    · rw [hcheck, CheckResult.trap.injEq]
      constructor
      · rintro rfl
        exact ⟨rfl, hen, (Bool.not_not _).symm, hacts⟩
      · rintro ⟨-, -, h32, -⟩
        rw [h32, Bool.not_not]
    · rw [hcheck]
      refine ⟨nofun, fun ⟨_, hen, h32, hacts⟩ => absurd ⟨hen, ?_⟩ hnot⟩
      rwa [h32, Bool.not_not]
  | el2 => simp [checkAccess_el2 dir cfg inputs hel]
  | el3 => simp [checkAccess_el3 dir cfg inputs hel]

/-- A ready access names a register. -/
theorem exists_reg_of_ready {i : Instr} {s : State} (hready : Ready i s) : ∃ t : Fin 15, t.val = i.rt.toNat := by
  obtain ⟨-, hw, -⟩ := hready
  obtain ⟨-, hrt⟩ := (Instr.wf_iff i).1 hw
  obtain ⟨t, -, ht⟩ := regOf_of_admitted i.iset i.rt hrt
  exact ⟨t, ht⟩

/-- A ready access whose check gives an exception records it and does nothing else. -/
theorem exec_of_exception {i : Instr} {s : State} {r : Response} (hready : Ready i s)
    (hr : (checkAccess i.dir s.cfg s.inputs).exception = some r) : exec i s = .next (s.respond r) := by
  obtain ⟨t, ht⟩ := exists_reg_of_ready hready
  rw [exec_of_ready hready ht]
  obtain ⟨q, hq, hperf, -⟩ | ⟨c, hcheck, -⟩ := performAccess_cases i.dir t s
  · cases hq.symm.trans hr
    rw [hperf]
  · rw [hcheck] at hr
    cases hr

theorem exec_of_trap {i : Instr} {s : State} {aarch64 : Bool} (hready : Ready i s)
    (hcheck : checkAccess i.dir s.cfg s.inputs = .trap aarch64) :
    exec i s = .next (s.respond (.trapEL2 aarch64 0x03#8)) :=
  exec_of_exception hready (congrArg CheckResult.exception hcheck)

/-- Settles O1: at EL0 the check asks nothing else. -/
theorem accessFromEl0IsUndefined : Obligations.AccessFromEl0IsUndefined := by
  intro i s hready hel
  exact exec_of_exception hready (congrArg CheckResult.exception (checkAccess_el0 i.dir s.cfg s.inputs hel))

/-- Settles O2: the check traps to the AArch64 view. -/
theorem aArch64TrapFromEl1 : Obligations.AArch64TrapFromEl1 := by
  intro i s hready hel hen h32 hacts
  exact exec_of_trap hready ((checkAccess_eq_trap_iff i.dir s.cfg s.inputs true).2 ⟨hel, hen, h32, hacts⟩)

/-- Settles O3: the check traps to the AArch32 view. -/
theorem hypTrapFromEl1 : Obligations.HypTrapFromEl1 := by
  intro i s hready hel hen h32 hacts
  exact exec_of_trap hready ((checkAccess_eq_trap_iff i.dir s.cfg s.inputs false).2 ⟨hel, hen, h32, hacts⟩)

theorem transfer_response (dir : Dir) (c : CellName) (t : Fin 15) (s : State) :
    (transfer dir c t s).response = some .completed := by
  cases dir <;> rfl

/-- The outcome of a performed access is a trap exactly when its check is that trap, with exception class 0x03. -/
theorem performAccess_response_eq_trap_iff (dir : Dir) (t : Fin 15) (s : State) (aarch64 : Bool) (ec : BitVec 8) :
    (performAccess dir t s).response = some (.trapEL2 aarch64 ec) ↔
      ec = 0x03#8 ∧ checkAccess dir s.cfg s.inputs = .trap aarch64 := by
  unfold performAccess
  cases checkAccess dir s.cfg s.inputs with
  | undefined => simp
  | trap a => simp [and_comm, eq_comm]
  | cell c => simp [transfer_response]

/-- Settles O4: the outcome is the trap of the check, and the check traps by the table of R114. -/
theorem trapControlsActFromEl1Only : Obligations.TrapControlsActFromEl1Only := by
  intro i s hready
  obtain ⟨t, ht⟩ := exists_reg_of_ready hready
  refine ⟨performAccess i.dir t s, exec_of_ready hready ht, fun aarch64 ec => ?_⟩
  rw [performAccess_response_eq_trap_iff, checkAccess_eq_trap_iff]
  rfl

/-- A ready access whose check gives a cell completes with it. -/
theorem completesWith_of_check {i : Instr} {s : State} {c : CellName} (hready : Ready i s)
    (hcheck : checkAccess i.dir s.cfg s.inputs = .cell c) : CompletesWith i s c := by
  obtain ⟨t, ht⟩ := exists_reg_of_ready hready
  cases hdir : i.dir with
  | read =>
    rw [hdir] at hcheck
    exact ⟨t, readInto c t s, ht, exec_read hdir hready ht hcheck, rfl, fun _ => reg_readInto c t s,
      fun hw => absurd (hdir.symm.trans hw) nofun⟩
  | write =>
    rw [hdir] at hcheck
    exact ⟨t, writeFrom c t s, ht, exec_write hdir hready ht hcheck, rfl,
      fun hr => absurd (hdir.symm.trans hr) nofun, fun _ => cell_writeFrom c t s⟩

/-- Settles O5: level by level, the check is UNDEFINED or gives the copy named; at EL1 it asks the controls of the view
EL2 uses. -/
theorem privilegeDecidesAccess : Obligations.PrivilegeDecidesAccess := by
  intro i s hready
  rw [← cellBelowEl3_eq_ite s.cfg s.inputs]
  refine ⟨accessFromEl0IsUndefined i s hready, fun hel h64 h32 => completesWith_of_check hready ?_,
    fun hel => completesWith_of_check hready (checkAccess_el2 i.dir s.cfg s.inputs hel),
    fun hel => completesWith_of_check hready ?_⟩
  · obtain ⟨hen, hacts, -⟩ | ⟨-, hcheck⟩ := checkAccess_el1 i.dir s.cfg s.inputs hel
    · exfalso
      cases hview : s.inputs.el2AArch32 <;> rw [hview] at hacts
      · exact (not_controlActs_aarch64_iff i.dir s.inputs).2 (h64 hen hview) hacts
      · exact (not_controlActs_aarch32_iff i.dir s.inputs).2 (h32 hen hview) hacts
    · exact hcheck
  · rw [checkAccess_el3 i.dir s.cfg s.inputs hel]
    cases s.inputs.scrNS <;> rfl

/-- Settles O11: an access that did not complete only recorded its outcome, or was the skip. -/
theorem exceptionChangesNothing : Obligations.ExceptionChangesNothing := by
  intro i s s' h hne
  obtain ⟨-, -, ⟨-, t, -, rfl⟩ | ⟨-, rfl⟩⟩ := exec_next_cases i s s' h
  · obtain ⟨r, -, hperf, -⟩ | ⟨c, -, hperf⟩ := performAccess_cases i.dir t s
    · rw [hperf]
      exact ⟨State.cell_respond s r, State.reg_respond s r, rfl, rfl, rfl⟩
    · rw [hperf] at hne
      exact absurd (transfer_response i.dir c t s) hne
  · exact skipAccess_frame i.dir s

end Sys2Proof.Machine
end

section
/-! When a report has a step, and that its value owes nothing to the state (60_exceptions.md R121, R122). -/

namespace Sys2Proof.Machine

open Sys2Proof.Claims

/-- Settles O27: the value is `ReportValue(d)`, and the write of the cell is all the report does. -/
theorem reportReplacesCell : Obligations.ReportReplacesCell := by
  intro cfg d
  refine ⟨(reportValue cfg d).getD (KBits.unknown 32), ?_⟩
  rintro s rfl hadm
  obtain ⟨-, v, hv, hr⟩ | ⟨why, hwhy, -⟩ := report_cases d s
  · refine ⟨s.setCell d.cell v, hr, ?_, State.setCell_response s d.cell v, onlyCell_setCell s d.cell v⟩
    rw [State.cell_setCell_self, hv, Option.getD_some]
  · cases hwhy.symm.trans hadm

/-- A check of a chain passes when its condition fails and the rest of the chain passes. -/
theorem check_eq_none_iff {α : Type} (p : Prop) [Decidable p] (why : α) (rest : Option α) :
    (if p then some why else rest) = none ↔ ¬ p ∧ rest = none := by
  by_cases h : p <;> simp [h]

/-- A descriptor is admissible when it fails none of the checks of R122. -/
theorem inadmissible_eq_none_iff (cfg : Config) (inputs : Inputs) (d : Descriptor) :
    inadmissible cfg inputs d = none ↔
      cellExists cfg inputs d.cell = true ∧ d.kind.hasCode d.eae = true ∧ d.kind.applies cfg = true ∧
        (d.kind = .lockdown → cfg.haveImpdefLockdown = true) ∧
        (d.kind = .unsupportedExclusive → cfg.haveImpdefExcl = true) ∧ ¬ (d.byCmo = true ∧ d.byAt = true) := by
  simp [inadmissible, check_eq_none_iff]

/-- 10_state.md R11: `DFSR` is the cell that exists when the register is not banked, the two copies when it is. -/
theorem cellExists_iff (cfg : Config) (inputs : Inputs) (c : CellName) :
    cellExists cfg inputs c = true ↔ (c = .dfsr ↔ ¬ (cfg.haveEL3 = true ∧ inputs.el3AArch32 = true)) := by
  rw [← banked_eq_false_iff]
  cases c <;> simp [cellExists]

/-- A kind has a code when it has a row in the table of its layout. -/
theorem hasCode_iff (k : FaultKind) (eae : Bool) :
    k.hasCode eae = true ↔
      (eae = false → ∃ code, (code, k) ∈ fsRows) ∧ (eae = true → ∃ code, (code, k) ∈ statusRows) := by
  simp only [mem_fsRows_iff, mem_statusRows_iff, ← Option.isSome_iff_exists]
  cases eae <;> simp [FaultKind.hasCode]

/-- A kind applies when it has no row marked for RAS absent, or RAS is absent (D16). -/
theorem applies_iff_ras_absent (cfg : Config) (k : FaultKind) :
    k.applies cfg = true ↔ (k ∈ rasAbsentRows → cfg.haveRas = false) := by
  simp [applies_iff]

/-- A report has a step exactly when its descriptor is admissible. -/
theorem report_answers_iff (d : Descriptor) (s : State) :
    (∃ s' : State, report d s = .next s') ↔ inadmissible s.cfg s.inputs d = none := by
  constructor
  · rintro ⟨s', h⟩
    obtain ⟨hadm, -⟩ := report_next d s s' h
    exact hadm
  · intro hadm
    obtain ⟨-, v, -, hr⟩ | ⟨why, hwhy, -⟩ := report_cases d s
    · exact ⟨_, hr⟩
    · cases hwhy.symm.trans hadm

/-- Settles O28: check by check, admissibility is the condition stated. -/
theorem reportIsAdmissibleExactly : Obligations.ReportIsAdmissibleExactly := by
  intro d s
  constructor
  · refine (report_answers_iff d s).trans ?_
    rw [inadmissible_eq_none_iff, cellExists_iff, hasCode_iff, applies_iff_ras_absent, and_assoc]
  · obtain ⟨-, v, -, hr⟩ | ⟨why, -, hr⟩ := report_cases d s
    · exact .inl ⟨_, hr⟩
    · exact .inr ⟨why, hr⟩

end Sys2Proof.Machine
end

section
/-! The bits of a cell after a report, field by field (60_exceptions.md R123 to R130). -/

namespace Sys2Proof.Machine

open Sys2Proof.Claims

@[simp] theorem bit_flag (b : Bool) : (KBits.flag b).bit 0 = some b := by
  cases b <;> rfl

@[simp] theorem bit_unknown_one : (KBits.unknown 1).bit 0 = none := rfl

/-- After a report the cell holds the report value of its descriptor. -/
theorem reportValue_of_perform {d : Descriptor} {s s' : State} (h : perform (.report d) s = .next s') :
    reportValue s.cfg d = some (s'.cell d.cell) := by
  obtain ⟨-, v, hv, rfl⟩ := report_next d s s' h
  rw [State.cell_setCell_self, hv]

/-- Bits [31:11] of the cell after a report, whatever the layout. -/
theorem bit_high_of_perform {d : Descriptor} {s s' : State} (h : perform (.report d) s = .next s') (k : Nat)
    (hk : 11 ≤ k) : (s'.cell d.cell).bit k = (reportHigh s.cfg d).bit (k - 11) :=
  bit_reportValue_high s.cfg d _ (reportValue_of_perform h) k hk

/-- Bits [10:0] after a report under the Short-descriptor layout, from the code of the kind. -/
theorem bit_short_of_perform {d : Descriptor} {s s' : State} (h : perform (.report d) s = .next s')
    (he : d.eae = false) :
    ∃ code, d.kind.fs = some code ∧ ∀ k, k < 11 → (s'.cell d.cell).bit k = (reportLowShort d code).bit k := by
  obtain ⟨-, code, hcode, hv⟩ | ⟨he', -⟩ := reportValue_some s.cfg d _ (reportValue_of_perform h)
  · exact ⟨code, hcode, fun k hk => by rw [hv]; exact bit_append_reportLowShort _ d code k hk⟩
  · cases he.symm.trans he'

/-- Bits [10:0] after a report under the Long-descriptor layout, from the code of the kind. -/
theorem bit_long_of_perform {d : Descriptor} {s s' : State} (h : perform (.report d) s = .next s')
    (he : d.eae = true) :
    ∃ code, d.kind.status = some code ∧ ∀ k, k < 11 → (s'.cell d.cell).bit k = (reportLowLong code).bit k := by
  obtain ⟨he', -⟩ | ⟨-, code, hcode, hv⟩ := reportValue_some s.cfg d _ (reportValue_of_perform h)
  · cases he.symm.trans he'
  · exact ⟨code, hcode, fun k hk => by rw [hv]; exact bit_append_reportLowLong _ code k hk⟩

/-! Bits [31:11]: the fields both layouts share. -/

/-- Settles O29: bit [16] is the field FnV. -/
theorem reportFnv : Obligations.ReportFnv := by
  intro d s s' h
  obtain ⟨-, -, -, -, -, hfnv, -⟩ := bit_reportHigh s.cfg d
  rw [bit_high_of_perform h 16 (by omega), hfnv]
  unfold fnvField
  split_ifs
  · exact bit_flag _
  · exact bit_unknown_one
  · exact bit_flag false

/-- Settles O30: bits [15:14] are the field AET. -/
theorem reportAet : Obligations.ReportAet := by
  intro d s s' h
  obtain ⟨-, -, -, haet0, haet1, -⟩ := bit_reportHigh s.cfg d
  rw [bit_high_of_perform h 15 (by omega), bit_high_of_perform h 14 (by omega), haet0, haet1]
  unfold aetField
  constructor
  · intro hras hkind
    rw [if_pos ⟨hras, hkind⟩]
    exact ⟨KBits.bit_known d.aet 1, KBits.bit_known d.aet 0⟩
  · intro hno
    rw [if_neg hno]
    exact ⟨rfl, rfl⟩

/-- The kinds whose CM is unknown whatever the instruction: those of the cases (a) to (c) of 60_exceptions.md R125. -/
theorem cm_unknown_kind_iff (k : FaultKind) :
    k ∈ [.sError, .sErrorParity, .syncExternalTTW1, .syncExternalTTW2, .syncExternalTTW3, .syncParityTTW1,
      .syncParityTTW2, .syncParityTTW3, .lockdown, .unsupportedExclusive] ↔
    k.timing = .async ∨ k.onWalk = true ∨ k.timing = .impdef := by
  cases k <;> decide

/-- Settles O31: bit [13] is the field CM, whose first three cases are the kinds listed. -/
theorem reportCm : Obligations.ReportCm := by
  intro d s s' h
  obtain ⟨-, -, hcm, -⟩ := bit_reportHigh s.cfg d
  rw [bit_high_of_perform h 13 (by omega), hcm]
  simp only [cm_unknown_kind_iff]
  unfold cmField
  by_cases hunknown : d.kind.timing = .async ∨ d.kind.onWalk = true ∨ d.kind.timing = .impdef
  · rw [if_pos hunknown]
    obtain hk | hk | hk := hunknown <;> simp [hk]
  · rw [if_neg hunknown]
    obtain ⟨hasync, hrest⟩ := not_or.1 hunknown
    obtain ⟨hwalk, himpdef⟩ := not_or.1 hrest
    rw [if_neg hasync, if_neg hwalk, if_neg himpdef]
    cases d.byCmo <;> cases d.byAt <;> cases d.eae <;> rfl

theorem isExternalAbort_iff (k : FaultKind) :
    k ∈ [.syncExternal, .syncExternalTTW1, .syncExternalTTW2, .syncExternalTTW3] ↔ k.isExternalAbort = true := by
  cases k <;> decide

theorem maybeExternalAbort_iff (k : FaultKind) :
    k ∈ [.sError, .sErrorParity, .syncParity, .syncParityTTW1, .syncParityTTW2, .syncParityTTW3] ↔
      k.maybeExternalAbort = true := by
  cases k <;> decide

/-- Settles O32: bit [12] is the field ExT. -/
theorem reportExt : Obligations.ReportExt := by
  intro d s s' h
  obtain ⟨-, hext, -⟩ := bit_reportHigh s.cfg d
  rw [bit_high_of_perform h 12 (by omega), hext]
  simp only [isExternalAbort_iff, maybeExternalAbort_iff]
  unfold extField
  split_ifs
  · exact bit_flag false
  · exact KBits.bit_known _ 0
  · exact bit_unknown_one
  · exact bit_flag false

theorem async_iff (k : FaultKind) : k.timing = .async ↔ k = .sError ∨ k = .sErrorParity := by
  cases k <;> decide

/-- Settles O33: bit [11] is the field WnR. -/
theorem reportWnr : Obligations.ReportWnr := by
  intro d s s' h
  obtain ⟨hwnr, -⟩ := bit_reportHigh s.cfg d
  rw [bit_high_of_perform h 11 (by omega), hwnr]
  simp only [← async_iff]
  unfold wnrField
  by_cases hinstr : d.byCmo = true ∨ d.byAt = true
  · rw [if_pos hinstr, if_pos hinstr]
    exact bit_flag true
  rw [if_neg hinstr, if_neg hinstr]
  by_cases hasync : d.kind.timing = .async
  · rw [if_pos hasync, if_pos hasync]
    exact bit_unknown_one
  rw [if_neg hasync, if_neg hasync]
  cases d.access <;> rfl

/-! Bits [10:0]: the layout's own. -/

/-- Settles O34: the code stored is the one of the row of the kind. -/
theorem reportStatusCode : Obligations.ReportStatusCode := by
  intro d s s' h
  constructor
  · intro he row hrow
    obtain ⟨code, hcode, hbit⟩ := bit_short_of_perform h he
    obtain rfl : row = code := Option.some.inj (((mem_fsRows_iff row d.kind).1 hrow).symm.trans hcode)
    obtain ⟨hlow, -, -, -, htop⟩ := bit_reportLowShort d row
    exact ⟨(hbit 10 (by omega)).trans htop, fun k hk => (hbit k (by omega)).trans (hlow k hk)⟩
  · intro he row hrow
    obtain ⟨code, hcode, hbit⟩ := bit_long_of_perform h he
    obtain rfl : row = code := Option.some.inj (((mem_statusRows_iff row d.kind).1 hrow).symm.trans hcode)
    obtain ⟨hlow, -, -, -, -, htop⟩ := bit_reportLowLong row
    exact ⟨(hbit 10 (by omega)).trans htop, fun k hk => (hbit k (by omega)).trans (hlow k hk)⟩

/-- Settles O35: each layout writes its own constant to bit [9]. -/
theorem reportLpae : Obligations.ReportLpae := by
  intro d s s' h
  cases he : d.eae with
  | false =>
    obtain ⟨code, -, hbit⟩ := bit_short_of_perform h he
    obtain ⟨-, -, -, hlpae, -⟩ := bit_reportLowShort d code
    exact (hbit 9 (by omega)).trans hlpae
  | true =>
    obtain ⟨code, -, hbit⟩ := bit_long_of_perform h he
    obtain ⟨-, -, -, -, hlpae, -⟩ := bit_reportLowLong code
    exact (hbit 9 (by omega)).trans hlpae

theorem bit_domainField (d : Descriptor) (k : Nat) (hk : k < 4) :
    (domainField d).bit k = d.domain.map (·.getLsbD k) := by
  unfold domainField
  cases d.domain with
  | some n => exact KBits.bit_known n k
  | none => exact (KBits.bit_unknown k).trans (if_pos hk)

/-- Settles O36: the zeros are those of the two layouts, and Domain is the field of the Short-descriptor one. -/
theorem reportRemainingBits : Obligations.ReportRemainingBits := by
  intro d s s' h
  refine ⟨?_, fun he => ?_, fun he k hk => ?_⟩
  · rintro k (⟨hk, -⟩ | rfl)
    · obtain ⟨-, -, -, -, -, -, hzero⟩ := bit_reportHigh s.cfg d
      rw [bit_high_of_perform h k (by omega), hzero (k - 11) (by omega)]
    · exact bit_reportValue_eight s.cfg d _ (reportValue_of_perform h)
  · obtain ⟨code, -, hbit⟩ := bit_long_of_perform h he
    obtain ⟨-, h6, h7, -⟩ := bit_reportLowLong code
    exact ⟨(hbit 7 (by omega)).trans h7, (hbit 6 (by omega)).trans h6⟩
  · obtain ⟨code, -, hbit⟩ := bit_short_of_perform h he
    obtain ⟨-, hdomain, -⟩ := bit_reportLowShort d code
    rw [hbit (4 + k) (by omega), hdomain k hk, bit_domainField d k hk]
    cases d.domain <;> rfl

end Sys2Proof.Machine
end

section
/-! What no step moves: the parameters of the chip, and the inputs unless the event is their own move
(00_scope.md section 4; 60_exceptions.md section 8). -/

namespace Sys2Proof.Machine

theorem perform_next_cfg (e : Event) (s s' : State) (h : perform e s = .next s') : s'.cfg = s.cfg := by
  obtain ⟨-, i, -, -, he⟩ | ⟨d, v, -, -, rfl⟩ | ⟨v, -, rfl | ⟨-, rfl⟩⟩ | ⟨-, rfl⟩ | ⟨i, -, rfl⟩ | ⟨t, v, -, rfl⟩ :=
    perform_next_cases e s s' h
  · obtain ⟨hcfg, -, -⟩ := exec_next_keeps i s s' he
    exact hcfg
  · exact State.setCell_cfg s d.cell v
  all_goals rfl

/-- Settles O47: an idle step changes nothing, and every event keeps the parameters. -/
theorem stepKeepsParameters : Obligations.StepKeepsParameters := by
  intro s s' hstep
  obtain ⟨-, ⟨-, rfl⟩ | ⟨e, rest, -, hp⟩⟩ := step_next_cases s s' hstep
  · rfl
  · exact perform_next_cfg e (s.setEvents rest) s' hp

/-- An event other than the move of the inputs leaves them as they were. -/
theorem perform_next_inputs (e : Event) (s s' : State) (h : perform e s = .next s') (hmove : ∀ i, e ≠ .setInputs i) :
    s'.inputs = s.inputs := by
  obtain ⟨-, i, -, -, he⟩ | ⟨d, v, -, -, rfl⟩ | ⟨v, -, rfl | ⟨-, rfl⟩⟩ | ⟨-, rfl⟩ | ⟨i, he, -⟩ | ⟨t, v, -, rfl⟩ :=
    perform_next_cases e s s' h
  · obtain ⟨-, hinputs, -⟩ := exec_next_keeps i s s' he
    exact hinputs
  · exact State.setCell_inputs s d.cell v
  · rfl
  · rfl
  · rfl
  · exact absurd he (hmove i)
  · rfl

/-- Settles O46: the move is `setInputs` after the event is taken off the list, and no other event changes the inputs. -/
theorem inputsChangeByMoveOnly : Obligations.InputsChangeByMoveOnly := by
  refine fun s hpresent => ⟨fun i rest hevents => step_cons s _ rest hpresent hevents, fun s' hstep hmove => ?_⟩
  obtain ⟨-, ⟨-, rfl⟩ | ⟨e, rest, hevents, hp⟩⟩ := step_next_cases s s' hstep
  · rfl
  · exact perform_next_inputs e (s.setEvents rest) s' hp fun i he => hmove i rest (he ▸ hevents)

end Sys2Proof.Machine
end

section
/-! Which steps change a general register (40_sysreg_access.md R94, R95; 10_state.md section 6). -/

namespace Sys2Proof.Machine

/-- Of the accesses only a read whose condition passes and whose check gives a cell changes a register, and it is `Rt`. -/
theorem exec_next_reg_changed (i : Instr) (s s' : State) (t : Fin 15) (h : exec i s = .next s')
    (hne : s'.reg t ≠ s.reg t) :
    ∃ c : CellName, i.dir = .read ∧ i.rt.toNat = t.val ∧ condPasses i.cond s.inputs = true ∧
      checkAccess .read s.cfg s.inputs = .cell c := by
  obtain ⟨-, -, ⟨hcond, u, hu, rfl⟩ | ⟨-, rfl⟩⟩ := exec_next_cases i s s' h
  · obtain ⟨r, -, hperf, -⟩ | ⟨c, hcheck, hperf⟩ := performAccess_cases i.dir u s <;> rw [hperf] at hne
    · exact absurd (State.reg_respond s r t) hne
    · cases hdir : i.dir with
      | read =>
        rw [hdir] at hne hcheck
        obtain ⟨-, hothers, -⟩ := readInto_frame c u s
        obtain rfl : t = u := by
          by_contra htu
          exact hne (hothers t htu)
        exact ⟨c, rfl, hu.symm, hcond, hcheck⟩
      | write =>
        rw [hdir] at hne
        obtain ⟨-, -, hregs, -⟩ := writeFrom_frame c u s
        exact absurd (hregs t) hne
  · obtain ⟨-, hregs, -⟩ := skipAccess_frame i.dir s
    exact absurd (hregs t) hne

/-- The events that change `x[t]`: the move that names it, and a read into it. -/
theorem perform_next_reg_changed (e : Event) (s s' : State) (t : Fin 15) (h : perform e s = .next s')
    (hne : s'.reg t ≠ s.reg t) :
    (∃ v : Word, e = .setReg t v ∧ s'.reg t = v) ∨
      ∃ (w : Word) (i : Instr) (c : CellName), e = .fetch w ∧ decode s.inputs.iset w = .ok i ∧ i.dir = .read ∧
        i.rt.toNat = t.val ∧ condPasses i.cond s.inputs = true ∧ checkAccess .read s.cfg s.inputs = .cell c := by
  obtain ⟨w, i, rfl, hdec, he⟩ | ⟨d, v, -, -, rfl⟩ | ⟨v, -, rfl | ⟨-, rfl⟩⟩ | ⟨-, rfl⟩ | ⟨i, -, rfl⟩ |
    ⟨u, v, rfl, rfl⟩ := perform_next_cases e s s' h
  · obtain ⟨c, hread⟩ := exec_next_reg_changed i s s' t he hne
    exact .inr ⟨w, i, c, rfl, hdec, hread⟩
  · exact absurd (State.reg_setCell s d.cell v t) hne
  · exact absurd rfl hne
  · exact absurd (State.reg_setCell s .dfsr _ t) hne
  · exact absurd rfl hne
  · exact absurd (State.reg_setInputs s i t) hne
  · obtain rfl : t = u := by
      by_contra htu
      exact hne (State.reg_setReg_of_ne s u t v htu)
    exact .inl ⟨v, rfl, State.reg_setReg_self s t v⟩

/-- Settles O45: an idle step changes nothing, and taking the event off the list changes no register, input or parameter. -/
theorem registerChangesByReadOrMoveOnly : Obligations.RegisterChangesByReadOrMoveOnly := by
  intro s s' t hstep hne
  obtain ⟨-, ⟨-, rfl⟩ | ⟨e, rest, hevents, hp⟩⟩ := step_next_cases s s' hstep
  · exact absurd rfl hne
  refine ⟨rest, ?_⟩
  rw [hevents]
  obtain ⟨v, rfl, hv⟩ | ⟨w, i, c, rfl, hread⟩ := perform_next_reg_changed e (s.setEvents rest) s' t hp hne
  · exact .inl ⟨v, rfl, hv⟩
  · exact .inr ⟨w, i, c, rfl, hread⟩

end Sys2Proof.Machine
end

section
/-! The write through ESR_EL1 where `DFSR` is not the cell it maps, or its reserved bits have no storage (D19; log 11). -/

namespace Sys2Proof.Machine

theorem banked_eq_true_iff (cfg : Config) (inputs : Inputs) :
    banked cfg inputs = true ↔ cfg.haveEL3 = true ∧ inputs.el3AArch32 = true := by
  simp [banked]

/-- When the cells are banked the move maps neither copy and changes nothing. -/
theorem esrWrite_of_banked (v : Word) (s : State) (h : banked s.cfg s.inputs = true) : esrWrite v s = .next s := if_pos h

theorem esrEl1_of_banked (s : State) (h : banked s.cfg s.inputs = true) : s.esrEl1 = none := if_pos h

/-- When they are not, `hardwired` refuses the move by name. -/
theorem esrWrite_of_hardwired (v : Word) (s : State) (hb : banked s.cfg s.inputs = false)
    (hpol : s.cfg.res0Policy = .hardwired) : esrWrite v s = .refused .esrWriteNeedsStorage := by
  simp [esrWrite, hb, hpol]

/-- Settles O41: the two clauses are the two sides of `banked`. -/
theorem esrWriteReachesNoOtherCell : Obligations.EsrWriteReachesNoOtherCell := by
  refine fun s v => ⟨fun hbanked => ?_, fun hnb hpol => ?_⟩
  · have hb : banked s.cfg s.inputs = true := (banked_eq_true_iff _ _).2 hbanked
    exact ⟨esrWrite_of_banked v s hb, esrEl1_of_banked s hb⟩
  · exact esrWrite_of_hardwired v s ((banked_eq_false_iff _ _).2 hnb) hpol

end Sys2Proof.Machine
end
